-- ==== Sys2Proof/Word.lean ====
section
/-! DEFINITION. The bit-string types the spec names: words, bytes, register fields and word addresses. -/

namespace Sys2Proof

/-- A 32-bit word: general registers, addresses, instruction words (00_scope.md R7, R10). -/
abbrev Word := BitVec 32

/-- A byte, the addressable unit (00_scope.md R7, 20_memory.md R80). -/
abbrev Byte := BitVec 8

/-- A five-bit register specifier field of an instruction (30_encoding.md R141). -/
abbrev Reg := BitVec 5

/-- A physical word address, `PA[31:2]` (20_memory.md R82). -/
abbrev WordAddr := BitVec 30

/-- A set of byte lanes of a word, bit `k` being lane `k`, bits 8k+7:8k (20_memory.md R82, R86). -/
abbrev Lanes := BitVec 4

/-- A raw floating-point operand: 64 bits, or 32 bits with zeros above (45_fpa_formats.md R310). -/
abbrev Raw := BitVec 64

/-- The one-bit string of a flag. -/
def bit (b : Bool) : BitVec 1 := BitVec.ofBool b

end Sys2Proof
end

