-- ==== Sys2Proof/Syntax.lean ====
section
/-! DEFINITION. The instructions: one constructor for every row of spec/opcode_table.json, in the
table's order. Fields an instruction does not use are not part of it (30_encoding.md R155). -/

namespace Sys2Proof

/-- The instruction set (30_encoding.md R143). Operands stand in the order of the table's fields;
immediates and offsets are the raw 16-bit fields, extended by each instruction's meaning (R144). -/
inductive Instr where
  /-- `LB`: 40_load_store.md R172. -/
  | lb (base rt : Reg) (offset : BitVec 16)
  /-- `LH`: 40_load_store.md R174. -/
  | lh (base rt : Reg) (offset : BitVec 16)
  /-- `LWL`: 40_load_store.md R177. -/
  | lwl (base rt : Reg) (offset : BitVec 16)
  /-- `LW`: 40_load_store.md R176. -/
  | lw (base rt : Reg) (offset : BitVec 16)
  /-- `LBU`: 40_load_store.md R173. -/
  | lbu (base rt : Reg) (offset : BitVec 16)
  /-- `LHU`: 40_load_store.md R175. -/
  | lhu (base rt : Reg) (offset : BitVec 16)
  /-- `LWR`: 40_load_store.md R178. -/
  | lwr (base rt : Reg) (offset : BitVec 16)
  /-- `SB`: 40_load_store.md R180. -/
  | sb (base rt : Reg) (offset : BitVec 16)
  /-- `SH`: 40_load_store.md R181. -/
  | sh (base rt : Reg) (offset : BitVec 16)
  /-- `SWL`: 40_load_store.md R183. -/
  | swl (base rt : Reg) (offset : BitVec 16)
  /-- `SW`: 40_load_store.md R182. -/
  | sw (base rt : Reg) (offset : BitVec 16)
  /-- `SWR`: 40_load_store.md R184. -/
  | swr (base rt : Reg) (offset : BitVec 16)
  /-- `ADDI`: 41_computational.md R191. -/
  | addi (rs rt : Reg) (imm : BitVec 16)
  /-- `ADDIU`: 41_computational.md R192. -/
  | addiu (rs rt : Reg) (imm : BitVec 16)
  /-- `SLTI`: 41_computational.md R193. -/
  | slti (rs rt : Reg) (imm : BitVec 16)
  /-- `SLTIU`: 41_computational.md R194. -/
  | sltiu (rs rt : Reg) (imm : BitVec 16)
  /-- `ANDI`: 41_computational.md R195. -/
  | andi (rs rt : Reg) (imm : BitVec 16)
  /-- `ORI`: 41_computational.md R196. -/
  | ori (rs rt : Reg) (imm : BitVec 16)
  /-- `XORI`: 41_computational.md R197. -/
  | xori (rs rt : Reg) (imm : BitVec 16)
  /-- `LUI`: 41_computational.md R198. -/
  | lui (rt : Reg) (imm : BitVec 16)
  /-- `ADD`: 41_computational.md R200. -/
  | add (rs rt rd : Reg)
  /-- `ADDU`: 41_computational.md R201. -/
  | addu (rs rt rd : Reg)
  /-- `SUB`: 41_computational.md R202. -/
  | sub (rs rt rd : Reg)
  /-- `SUBU`: 41_computational.md R203. -/
  | subu (rs rt rd : Reg)
  /-- `AND`: 41_computational.md R206. -/
  | and (rs rt rd : Reg)
  /-- `OR`: 41_computational.md R207. -/
  | or (rs rt rd : Reg)
  /-- `XOR`: 41_computational.md R208. -/
  | xor (rs rt rd : Reg)
  /-- `NOR`: 41_computational.md R209. -/
  | nor (rs rt rd : Reg)
  /-- `SLT`: 41_computational.md R204. -/
  | slt (rs rt rd : Reg)
  /-- `SLTU`: 41_computational.md R205. -/
  | sltu (rs rt rd : Reg)
  /-- `SLL`: 41_computational.md R211. -/
  | sll (rt rd : Reg) (shamt : BitVec 5)
  /-- `SRL`: 41_computational.md R212. -/
  | srl (rt rd : Reg) (shamt : BitVec 5)
  /-- `SRA`: 41_computational.md R213. -/
  | sra (rt rd : Reg) (shamt : BitVec 5)
  /-- `SLLV`: 41_computational.md R214. -/
  | sllv (rs rt rd : Reg)
  /-- `SRLV`: 41_computational.md R215. -/
  | srlv (rs rt rd : Reg)
  /-- `SRAV`: 41_computational.md R216. -/
  | srav (rs rt rd : Reg)
  /-- `MULT`: 41_computational.md R226. -/
  | mult (rs rt : Reg)
  /-- `MULTU`: 41_computational.md R227. -/
  | multu (rs rt : Reg)
  /-- `DIV`: 41_computational.md R228. -/
  | div (rs rt : Reg)
  /-- `DIVU`: 41_computational.md R229. -/
  | divu (rs rt : Reg)
  /-- `MFHI`: 41_computational.md R230. -/
  | mfhi (rd : Reg)
  /-- `MTHI`: 41_computational.md R231. -/
  | mthi (rs : Reg)
  /-- `MFLO`: 41_computational.md R232. -/
  | mflo (rd : Reg)
  /-- `MTLO`: 41_computational.md R233. -/
  | mtlo (rs : Reg)
  /-- `J`: 42_jump_branch.md R242. -/
  | j (target : BitVec 26)
  /-- `JAL`: 42_jump_branch.md R243. -/
  | jal (target : BitVec 26)
  /-- `JR`: 42_jump_branch.md R244. -/
  | jr (rs : Reg)
  /-- `JALR`: 42_jump_branch.md R245. -/
  | jalr (rs rd : Reg)
  /-- `BEQ`: 42_jump_branch.md R246. -/
  | beq (rs rt : Reg) (offset : BitVec 16)
  /-- `BNE`: 42_jump_branch.md R247. -/
  | bne (rs rt : Reg) (offset : BitVec 16)
  /-- `BLEZ`: 42_jump_branch.md R248. -/
  | blez (rs : Reg) (offset : BitVec 16)
  /-- `BGTZ`: 42_jump_branch.md R249. -/
  | bgtz (rs : Reg) (offset : BitVec 16)
  /-- `BLTZ`: 42_jump_branch.md R250. -/
  | bltz (rs : Reg) (offset : BitVec 16)
  /-- `BGEZ`: 42_jump_branch.md R253. -/
  | bgez (rs : Reg) (offset : BitVec 16)
  /-- `BLTZAL`: 42_jump_branch.md R251. -/
  | bltzal (rs : Reg) (offset : BitVec 16)
  /-- `BGEZAL`: 42_jump_branch.md R252. -/
  | bgezal (rs : Reg) (offset : BitVec 16)
  /-- `SYSCALL`: 43_special_coprocessor.md R261. -/
  | syscall (code : BitVec 20)
  /-- `BREAK`: 43_special_coprocessor.md R262. -/
  | brk (code : BitVec 20)
  /-- `MFC0`: 44_cp0_instructions.md R291. -/
  | mfc0 (rt rd : Reg)
  /-- `MTC0`: 44_cp0_instructions.md R290. -/
  | mtc0 (rt rd : Reg)
  /-- `TLBR`: 44_cp0_instructions.md R292. -/
  | tlbr
  /-- `TLBWI`: 44_cp0_instructions.md R293. -/
  | tlbwi
  /-- `TLBWR`: 44_cp0_instructions.md R294. -/
  | tlbwr
  /-- `TLBP`: 44_cp0_instructions.md R295. -/
  | tlbp
  /-- `RFE`: 44_cp0_instructions.md R297. -/
  | rfe
  /-- `BC0F`: 43_special_coprocessor.md R270. -/
  | bc0f (offset : BitVec 16)
  /-- `BC0T`: 43_special_coprocessor.md R270. -/
  | bc0t (offset : BitVec 16)
  /-- `BC2F`: 43_special_coprocessor.md R270. -/
  | bc2f (offset : BitVec 16)
  /-- `BC2T`: 43_special_coprocessor.md R270. -/
  | bc2t (offset : BitVec 16)
  /-- `BC3F`: 43_special_coprocessor.md R270. -/
  | bc3f (offset : BitVec 16)
  /-- `BC3T`: 43_special_coprocessor.md R270. -/
  | bc3t (offset : BitVec 16)
  /-- `LWC1`: 46_fpa_instructions.md R345. -/
  | lwc1 (base ft : Reg) (offset : BitVec 16)
  /-- `SWC1`: 46_fpa_instructions.md R346. -/
  | swc1 (base ft : Reg) (offset : BitVec 16)
  /-- `MFC1`: 46_fpa_instructions.md R348. -/
  | mfc1 (rt fs : Reg)
  /-- `CFC1`: 46_fpa_instructions.md R350. -/
  | cfc1 (rt fs : Reg)
  /-- `MTC1`: 46_fpa_instructions.md R347. -/
  | mtc1 (rt fs : Reg)
  /-- `CTC1`: 46_fpa_instructions.md R349. -/
  | ctc1 (rt fs : Reg)
  /-- `BC1F`: 46_fpa_instructions.md R366. -/
  | bc1f (offset : BitVec 16)
  /-- `BC1T`: 46_fpa_instructions.md R366. -/
  | bc1t (offset : BitVec 16)
  /-- `ADD.S`: 46_fpa_instructions.md R352. -/
  | addS (ft fs fd : Reg)
  /-- `ADD.D`: 46_fpa_instructions.md R352. -/
  | addD (ft fs fd : Reg)
  /-- `SUB.S`: 46_fpa_instructions.md R353. -/
  | subS (ft fs fd : Reg)
  /-- `SUB.D`: 46_fpa_instructions.md R353. -/
  | subD (ft fs fd : Reg)
  /-- `MUL.S`: 46_fpa_instructions.md R354. -/
  | mulS (ft fs fd : Reg)
  /-- `MUL.D`: 46_fpa_instructions.md R354. -/
  | mulD (ft fs fd : Reg)
  /-- `DIV.S`: 46_fpa_instructions.md R355. -/
  | divS (ft fs fd : Reg)
  /-- `DIV.D`: 46_fpa_instructions.md R355. -/
  | divD (ft fs fd : Reg)
  /-- `ABS.S`: 46_fpa_instructions.md R356. -/
  | absS (fs fd : Reg)
  /-- `ABS.D`: 46_fpa_instructions.md R356. -/
  | absD (fs fd : Reg)
  /-- `MOV.S`: 46_fpa_instructions.md R357. -/
  | movS (fs fd : Reg)
  /-- `MOV.D`: 46_fpa_instructions.md R357. -/
  | movD (fs fd : Reg)
  /-- `NEG.S`: 46_fpa_instructions.md R358. -/
  | negS (fs fd : Reg)
  /-- `NEG.D`: 46_fpa_instructions.md R358. -/
  | negD (fs fd : Reg)
  /-- `CVT.S.D`: 46_fpa_instructions.md R360. -/
  | cvtSD (fs fd : Reg)
  /-- `CVT.S.W`: 46_fpa_instructions.md R360. -/
  | cvtSW (fs fd : Reg)
  /-- `CVT.D.S`: 46_fpa_instructions.md R361. -/
  | cvtDS (fs fd : Reg)
  /-- `CVT.D.W`: 46_fpa_instructions.md R361. -/
  | cvtDW (fs fd : Reg)
  /-- `CVT.W.S`: 46_fpa_instructions.md R362. -/
  | cvtWS (fs fd : Reg)
  /-- `CVT.W.D`: 46_fpa_instructions.md R362. -/
  | cvtWD (fs fd : Reg)
  /-- `C.F.S`: 46_fpa_instructions.md R364. -/
  | cFS (ft fs : Reg)
  /-- `C.F.D`: 46_fpa_instructions.md R364. -/
  | cFD (ft fs : Reg)
  /-- `C.UN.S`: 46_fpa_instructions.md R364. -/
  | cUnS (ft fs : Reg)
  /-- `C.UN.D`: 46_fpa_instructions.md R364. -/
  | cUnD (ft fs : Reg)
  /-- `C.EQ.S`: 46_fpa_instructions.md R364. -/
  | cEqS (ft fs : Reg)
  /-- `C.EQ.D`: 46_fpa_instructions.md R364. -/
  | cEqD (ft fs : Reg)
  /-- `C.UEQ.S`: 46_fpa_instructions.md R364. -/
  | cUeqS (ft fs : Reg)
  /-- `C.UEQ.D`: 46_fpa_instructions.md R364. -/
  | cUeqD (ft fs : Reg)
  /-- `C.OLT.S`: 46_fpa_instructions.md R364. -/
  | cOltS (ft fs : Reg)
  /-- `C.OLT.D`: 46_fpa_instructions.md R364. -/
  | cOltD (ft fs : Reg)
  /-- `C.ULT.S`: 46_fpa_instructions.md R364. -/
  | cUltS (ft fs : Reg)
  /-- `C.ULT.D`: 46_fpa_instructions.md R364. -/
  | cUltD (ft fs : Reg)
  /-- `C.OLE.S`: 46_fpa_instructions.md R364. -/
  | cOleS (ft fs : Reg)
  /-- `C.OLE.D`: 46_fpa_instructions.md R364. -/
  | cOleD (ft fs : Reg)
  /-- `C.ULE.S`: 46_fpa_instructions.md R364. -/
  | cUleS (ft fs : Reg)
  /-- `C.ULE.D`: 46_fpa_instructions.md R364. -/
  | cUleD (ft fs : Reg)
  /-- `C.SF.S`: 46_fpa_instructions.md R364. -/
  | cSfS (ft fs : Reg)
  /-- `C.SF.D`: 46_fpa_instructions.md R364. -/
  | cSfD (ft fs : Reg)
  /-- `C.NGLE.S`: 46_fpa_instructions.md R364. -/
  | cNgleS (ft fs : Reg)
  /-- `C.NGLE.D`: 46_fpa_instructions.md R364. -/
  | cNgleD (ft fs : Reg)
  /-- `C.SEQ.S`: 46_fpa_instructions.md R364. -/
  | cSeqS (ft fs : Reg)
  /-- `C.SEQ.D`: 46_fpa_instructions.md R364. -/
  | cSeqD (ft fs : Reg)
  /-- `C.NGL.S`: 46_fpa_instructions.md R364. -/
  | cNglS (ft fs : Reg)
  /-- `C.NGL.D`: 46_fpa_instructions.md R364. -/
  | cNglD (ft fs : Reg)
  /-- `C.LT.S`: 46_fpa_instructions.md R364. -/
  | cLtS (ft fs : Reg)
  /-- `C.LT.D`: 46_fpa_instructions.md R364. -/
  | cLtD (ft fs : Reg)
  /-- `C.NGE.S`: 46_fpa_instructions.md R364. -/
  | cNgeS (ft fs : Reg)
  /-- `C.NGE.D`: 46_fpa_instructions.md R364. -/
  | cNgeD (ft fs : Reg)
  /-- `C.LE.S`: 46_fpa_instructions.md R364. -/
  | cLeS (ft fs : Reg)
  /-- `C.LE.D`: 46_fpa_instructions.md R364. -/
  | cLeD (ft fs : Reg)
  /-- `C.NGT.S`: 46_fpa_instructions.md R364. -/
  | cNgtS (ft fs : Reg)
  /-- `C.NGT.D`: 46_fpa_instructions.md R364. -/
  | cNgtD (ft fs : Reg)
deriving DecidableEq, Repr

end Sys2Proof
end

