-- ==== Sys2Proof/Decode.lean ====
section
/-! DEFINITION. Instruction words: the field layout of 30_encoding.md R141, the decoder of R164 and,
after it, the encoder. The decoder is total and ignores unused fields (R155, D31; log 23). -/

namespace Sys2Proof

/-- Why a word is not an instruction of the table (30_encoding.md R160). What the machine then does
is `Machine.undefinedWord`. -/
inductive DecodeError where
  /-- A reserved major opcode or SPECIAL function: the RI exception (R160 a, b). -/
  | reservedInstruction
  /-- BCOND with an rt field other than 0, 1, 16, 17 (R160 c). -/
  | undefinedBcond
  /-- A coprocessor word with no meaning: R160 d, e, g, h. -/
  | undefinedCoprocessorOp (z : BitVec 2)
  /-- A reserved format, function or pair of the FPA (R160 f, 46_fpa_instructions.md R368). -/
  | reservedFpaOp
deriving DecidableEq, Repr

/-- `op`, bits 31:26 (30_encoding.md R141). -/
def opField (w : Word) : BitVec 6 := w.extractLsb' 26 6
/-- `rs`, `base` or `fmt`, bits 25:21. -/
def rsField (w : Word) : Reg := w.extractLsb' 21 5
/-- `rt` or `ft`, bits 20:16. -/
def rtField (w : Word) : Reg := w.extractLsb' 16 5
/-- `rd` or `fs`, bits 15:11. -/
def rdField (w : Word) : Reg := w.extractLsb' 11 5
/-- `shamt` or `fd`, bits 10:6. -/
def shamtField (w : Word) : Reg := w.extractLsb' 6 5
/-- `funct`, bits 5:0. -/
def functField (w : Word) : BitVec 6 := w.extractLsb' 0 6
/-- `immediate` or `offset`, bits 15:0. -/
def immField (w : Word) : BitVec 16 := w.extractLsb' 0 16
/-- `target`, bits 25:0. -/
def targetField (w : Word) : BitVec 26 := w.extractLsb' 0 26
/-- `code` of SYSCALL and BREAK, bits 25:6 (30_encoding.md R157). -/
def codeField (w : Word) : BitVec 20 := w.extractLsb' 6 20

/-- An I-type word (30_encoding.md R141). -/
def iType (op : BitVec 6) (rs rt : Reg) (imm : BitVec 16) : Word := op ++ rs ++ rt ++ imm
/-- A J-type word. -/
def jType (op : BitVec 6) (target : BitVec 26) : Word := op ++ target
/-- An R-type word. -/
def rType (op : BitVec 6) (rs rt rd shamt : Reg) (funct : BitVec 6) : Word :=
  op ++ rs ++ rt ++ rd ++ shamt ++ funct
/-- A SPECIAL word with a code field (30_encoding.md R157). -/
def codeType (code : BitVec 20) (funct : BitVec 6) : Word := (0x0#6) ++ code ++ funct

/-- SPECIAL (op = 0): the function field selects the instruction; the other cells are reserved
(30_encoding.md R149, R160 b). -/
def decodeSpecial (w : Word) : Except DecodeError Instr :=
  match functField w with
  | 0x0#6 => .ok (.sll (rtField w) (rdField w) (shamtField w))
  | 0x2#6 => .ok (.srl (rtField w) (rdField w) (shamtField w))
  | 0x3#6 => .ok (.sra (rtField w) (rdField w) (shamtField w))
  | 0x4#6 => .ok (.sllv (rsField w) (rtField w) (rdField w))
  | 0x6#6 => .ok (.srlv (rsField w) (rtField w) (rdField w))
  | 0x7#6 => .ok (.srav (rsField w) (rtField w) (rdField w))
  | 0x8#6 => .ok (.jr (rsField w))
  | 0x9#6 => .ok (.jalr (rsField w) (rdField w))
  | 0xc#6 => .ok (.syscall (codeField w))
  | 0xd#6 => .ok (.brk (codeField w))
  | 0x10#6 => .ok (.mfhi (rdField w))
  | 0x11#6 => .ok (.mthi (rsField w))
  | 0x12#6 => .ok (.mflo (rdField w))
  | 0x13#6 => .ok (.mtlo (rsField w))
  | 0x18#6 => .ok (.mult (rsField w) (rtField w))
  | 0x19#6 => .ok (.multu (rsField w) (rtField w))
  | 0x1a#6 => .ok (.div (rsField w) (rtField w))
  | 0x1b#6 => .ok (.divu (rsField w) (rtField w))
  | 0x20#6 => .ok (.add (rsField w) (rtField w) (rdField w))
  | 0x21#6 => .ok (.addu (rsField w) (rtField w) (rdField w))
  | 0x22#6 => .ok (.sub (rsField w) (rtField w) (rdField w))
  | 0x23#6 => .ok (.subu (rsField w) (rtField w) (rdField w))
  | 0x24#6 => .ok (.and (rsField w) (rtField w) (rdField w))
  | 0x25#6 => .ok (.or (rsField w) (rtField w) (rdField w))
  | 0x26#6 => .ok (.xor (rsField w) (rtField w) (rdField w))
  | 0x27#6 => .ok (.nor (rsField w) (rtField w) (rdField w))
  | 0x2a#6 => .ok (.slt (rsField w) (rtField w) (rdField w))
  | 0x2b#6 => .ok (.sltu (rsField w) (rtField w) (rdField w))
  | _ => .error .reservedInstruction

/-- BCOND (op = 1): the rt field selects the branch (30_encoding.md R150, R160 c). -/
def decodeBcond (w : Word) : Except DecodeError Instr :=
  match rtField w with
  | 0x0#5 => .ok (.bltz (rsField w) (immField w))
  | 0x1#5 => .ok (.bgez (rsField w) (immField w))
  | 0x10#5 => .ok (.bltzal (rsField w) (immField w))
  | 0x11#5 => .ok (.bgezal (rsField w) (immField w))
  | _ => .error .undefinedBcond

/-- COP0 with bit 25 set: bits 4:0 select the operation (30_encoding.md R153, R160 e). -/
def decodeCop0Operation (w : Word) : Except DecodeError Instr :=
  match w.extractLsb' 0 5 with
  | 0x1#5 => .ok (.tlbr)
  | 0x2#5 => .ok (.tlbwi)
  | 0x6#5 => .ok (.tlbwr)
  | 0x8#5 => .ok (.tlbp)
  | 0x10#5 => .ok (.rfe)
  | _ => .error (.undefinedCoprocessorOp 0)

/-- BC of coprocessor `z` (30_encoding.md R152): the rt field selects false or true. -/
def decodeBranchCond (z : BitVec 2) (onFalse onTrue : BitVec 16 → Instr) (w : Word) :
    Except DecodeError Instr :=
  match rtField w with
  | 0x0#5 => .ok (onFalse (immField w))
  | 0x1#5 => .ok (onTrue (immField w))
  | _ => .error (.undefinedCoprocessorOp z)

/-- COP0 (30_encoding.md R151, R153, R160 d, e; CFC0 and CTC0 are undefined). -/
def decodeCop0 (w : Word) : Except DecodeError Instr :=
  if w.getLsbD 25 then decodeCop0Operation w
  else match rsField w with
    | 0x0#5 => .ok (.mfc0 (rtField w) (rdField w))
    | 0x4#5 => .ok (.mtc0 (rtField w) (rdField w))
    | 0x8#5 => decodeBranchCond 0 .bc0f .bc0t w
    | _ => .error (.undefinedCoprocessorOp 0)

/-- COP1 operations with fmt S (45_fpa_formats.md R322 c, d; the other cells are reserved, R368). -/
def decodeFpaSingle (w : Word) : Except DecodeError Instr :=
  match functField w with
  | 0x0#6 => .ok (.addS (rtField w) (rdField w) (shamtField w))
  | 0x1#6 => .ok (.subS (rtField w) (rdField w) (shamtField w))
  | 0x2#6 => .ok (.mulS (rtField w) (rdField w) (shamtField w))
  | 0x3#6 => .ok (.divS (rtField w) (rdField w) (shamtField w))
  | 0x5#6 => .ok (.absS (rdField w) (shamtField w))
  | 0x6#6 => .ok (.movS (rdField w) (shamtField w))
  | 0x7#6 => .ok (.negS (rdField w) (shamtField w))
  | 0x21#6 => .ok (.cvtDS (rdField w) (shamtField w))
  | 0x24#6 => .ok (.cvtWS (rdField w) (shamtField w))
  | 0x30#6 => .ok (.cFS (rtField w) (rdField w))
  | 0x31#6 => .ok (.cUnS (rtField w) (rdField w))
  | 0x32#6 => .ok (.cEqS (rtField w) (rdField w))
  | 0x33#6 => .ok (.cUeqS (rtField w) (rdField w))
  | 0x34#6 => .ok (.cOltS (rtField w) (rdField w))
  | 0x35#6 => .ok (.cUltS (rtField w) (rdField w))
  | 0x36#6 => .ok (.cOleS (rtField w) (rdField w))
  | 0x37#6 => .ok (.cUleS (rtField w) (rdField w))
  | 0x38#6 => .ok (.cSfS (rtField w) (rdField w))
  | 0x39#6 => .ok (.cNgleS (rtField w) (rdField w))
  | 0x3a#6 => .ok (.cSeqS (rtField w) (rdField w))
  | 0x3b#6 => .ok (.cNglS (rtField w) (rdField w))
  | 0x3c#6 => .ok (.cLtS (rtField w) (rdField w))
  | 0x3d#6 => .ok (.cNgeS (rtField w) (rdField w))
  | 0x3e#6 => .ok (.cLeS (rtField w) (rdField w))
  | 0x3f#6 => .ok (.cNgtS (rtField w) (rdField w))
  | _ => .error .reservedFpaOp

/-- COP1 operations with fmt D (45_fpa_formats.md R322 c, d; the other cells are reserved, R368). -/
def decodeFpaDouble (w : Word) : Except DecodeError Instr :=
  match functField w with
  | 0x0#6 => .ok (.addD (rtField w) (rdField w) (shamtField w))
  | 0x1#6 => .ok (.subD (rtField w) (rdField w) (shamtField w))
  | 0x2#6 => .ok (.mulD (rtField w) (rdField w) (shamtField w))
  | 0x3#6 => .ok (.divD (rtField w) (rdField w) (shamtField w))
  | 0x5#6 => .ok (.absD (rdField w) (shamtField w))
  | 0x6#6 => .ok (.movD (rdField w) (shamtField w))
  | 0x7#6 => .ok (.negD (rdField w) (shamtField w))
  | 0x20#6 => .ok (.cvtSD (rdField w) (shamtField w))
  | 0x24#6 => .ok (.cvtWD (rdField w) (shamtField w))
  | 0x30#6 => .ok (.cFD (rtField w) (rdField w))
  | 0x31#6 => .ok (.cUnD (rtField w) (rdField w))
  | 0x32#6 => .ok (.cEqD (rtField w) (rdField w))
  | 0x33#6 => .ok (.cUeqD (rtField w) (rdField w))
  | 0x34#6 => .ok (.cOltD (rtField w) (rdField w))
  | 0x35#6 => .ok (.cUltD (rtField w) (rdField w))
  | 0x36#6 => .ok (.cOleD (rtField w) (rdField w))
  | 0x37#6 => .ok (.cUleD (rtField w) (rdField w))
  | 0x38#6 => .ok (.cSfD (rtField w) (rdField w))
  | 0x39#6 => .ok (.cNgleD (rtField w) (rdField w))
  | 0x3a#6 => .ok (.cSeqD (rtField w) (rdField w))
  | 0x3b#6 => .ok (.cNglD (rtField w) (rdField w))
  | 0x3c#6 => .ok (.cLtD (rtField w) (rdField w))
  | 0x3d#6 => .ok (.cNgeD (rtField w) (rdField w))
  | 0x3e#6 => .ok (.cLeD (rtField w) (rdField w))
  | 0x3f#6 => .ok (.cNgtD (rtField w) (rdField w))
  | _ => .error .reservedFpaOp

/-- COP1 operations with fmt W (45_fpa_formats.md R322 c, d; the other cells are reserved, R368). -/
def decodeFpaFixed (w : Word) : Except DecodeError Instr :=
  match functField w with
  | 0x20#6 => .ok (.cvtSW (rdField w) (shamtField w))
  | 0x21#6 => .ok (.cvtDW (rdField w) (shamtField w))
  | _ => .error .reservedFpaOp

/-- COP1 with bit 25 set: the format selects the table (45_fpa_formats.md R322 c; reserved formats,
46_fpa_instructions.md R368). -/
def decodeFpaOperation (w : Word) : Except DecodeError Instr :=
  match rsField w with
  | 0x10#5 => decodeFpaSingle w
  | 0x11#5 => decodeFpaDouble w
  | 0x14#5 => decodeFpaFixed w
  | _ => .error .reservedFpaOp

/-- COP1 (30_encoding.md R151, 45_fpa_formats.md R322 b). -/
def decodeCop1 (w : Word) : Except DecodeError Instr :=
  if w.getLsbD 25 then decodeFpaOperation w
  else match rsField w with
    | 0x0#5 => .ok (.mfc1 (rtField w) (rdField w))
    | 0x2#5 => .ok (.cfc1 (rtField w) (rdField w))
    | 0x4#5 => .ok (.mtc1 (rtField w) (rdField w))
    | 0x6#5 => .ok (.ctc1 (rtField w) (rdField w))
    | 0x8#5 => decodeBranchCond 1 .bc1f .bc1t w
    | _ => .error (.undefinedCoprocessorOp 1)

/-- COP2 and COP3: only the two branches are defined (30_encoding.md R160 g). -/
def decodeCop23 (z : BitVec 2) (onFalse onTrue : BitVec 16 → Instr) (w : Word) :
    Except DecodeError Instr :=
  if w.getLsbD 25 then .error (.undefinedCoprocessorOp z)
  else match rsField w with
    | 0x8#5 => decodeBranchCond z onFalse onTrue w
    | _ => .error (.undefinedCoprocessorOp z)

/-- The decode procedure (30_encoding.md R164): every word is an instruction or refused by name. -/
def decode (w : Word) : Except DecodeError Instr :=
  match opField w with
  | 0x0#6 => decodeSpecial w
  | 0x1#6 => decodeBcond w
  | 0x10#6 => decodeCop0 w
  | 0x11#6 => decodeCop1 w
  | 0x12#6 => decodeCop23 2 .bc2f .bc2t w
  | 0x13#6 => decodeCop23 3 .bc3f .bc3t w
  | 0x2#6 => .ok (.j (targetField w))
  | 0x3#6 => .ok (.jal (targetField w))
  | 0x4#6 => .ok (.beq (rsField w) (rtField w) (immField w))
  | 0x5#6 => .ok (.bne (rsField w) (rtField w) (immField w))
  | 0x6#6 => .ok (.blez (rsField w) (immField w))
  | 0x7#6 => .ok (.bgtz (rsField w) (immField w))
  | 0x8#6 => .ok (.addi (rsField w) (rtField w) (immField w))
  | 0x9#6 => .ok (.addiu (rsField w) (rtField w) (immField w))
  | 0xa#6 => .ok (.slti (rsField w) (rtField w) (immField w))
  | 0xb#6 => .ok (.sltiu (rsField w) (rtField w) (immField w))
  | 0xc#6 => .ok (.andi (rsField w) (rtField w) (immField w))
  | 0xd#6 => .ok (.ori (rsField w) (rtField w) (immField w))
  | 0xe#6 => .ok (.xori (rsField w) (rtField w) (immField w))
  | 0xf#6 => .ok (.lui (rtField w) (immField w))
  | 0x20#6 => .ok (.lb (rsField w) (rtField w) (immField w))
  | 0x21#6 => .ok (.lh (rsField w) (rtField w) (immField w))
  | 0x22#6 => .ok (.lwl (rsField w) (rtField w) (immField w))
  | 0x23#6 => .ok (.lw (rsField w) (rtField w) (immField w))
  | 0x24#6 => .ok (.lbu (rsField w) (rtField w) (immField w))
  | 0x25#6 => .ok (.lhu (rsField w) (rtField w) (immField w))
  | 0x26#6 => .ok (.lwr (rsField w) (rtField w) (immField w))
  | 0x28#6 => .ok (.sb (rsField w) (rtField w) (immField w))
  | 0x29#6 => .ok (.sh (rsField w) (rtField w) (immField w))
  | 0x2a#6 => .ok (.swl (rsField w) (rtField w) (immField w))
  | 0x2b#6 => .ok (.sw (rsField w) (rtField w) (immField w))
  | 0x2e#6 => .ok (.swr (rsField w) (rtField w) (immField w))
  | 0x31#6 => .ok (.lwc1 (rsField w) (rtField w) (immField w))
  | 0x39#6 => .ok (.swc1 (rsField w) (rtField w) (immField w))
  | 0x30#6 => .error (.undefinedCoprocessorOp 0)
  | 0x32#6 => .error (.undefinedCoprocessorOp 2)
  | 0x33#6 => .error (.undefinedCoprocessorOp 3)
  | 0x38#6 => .error (.undefinedCoprocessorOp 0)
  | 0x3a#6 => .error (.undefinedCoprocessorOp 2)
  | 0x3b#6 => .error (.undefinedCoprocessorOp 3)
  | _ => .error .reservedInstruction

/-- The word of an instruction, unused fields zero (30_encoding.md R141, R155). -/
def encode : Instr → Word
  | .lb base rt offset => iType 0x20 base rt offset
  | .lh base rt offset => iType 0x21 base rt offset
  | .lwl base rt offset => iType 0x22 base rt offset
  | .lw base rt offset => iType 0x23 base rt offset
  | .lbu base rt offset => iType 0x24 base rt offset
  | .lhu base rt offset => iType 0x25 base rt offset
  | .lwr base rt offset => iType 0x26 base rt offset
  | .sb base rt offset => iType 0x28 base rt offset
  | .sh base rt offset => iType 0x29 base rt offset
  | .swl base rt offset => iType 0x2a base rt offset
  | .sw base rt offset => iType 0x2b base rt offset
  | .swr base rt offset => iType 0x2e base rt offset
  | .addi rs rt imm => iType 0x8 rs rt imm
  | .addiu rs rt imm => iType 0x9 rs rt imm
  | .slti rs rt imm => iType 0xa rs rt imm
  | .sltiu rs rt imm => iType 0xb rs rt imm
  | .andi rs rt imm => iType 0xc rs rt imm
  | .ori rs rt imm => iType 0xd rs rt imm
  | .xori rs rt imm => iType 0xe rs rt imm
  | .lui rt imm => iType 0xf 0x0 rt imm
  | .add rs rt rd => rType 0x0 rs rt rd 0x0 0x20
  | .addu rs rt rd => rType 0x0 rs rt rd 0x0 0x21
  | .sub rs rt rd => rType 0x0 rs rt rd 0x0 0x22
  | .subu rs rt rd => rType 0x0 rs rt rd 0x0 0x23
  | .and rs rt rd => rType 0x0 rs rt rd 0x0 0x24
  | .or rs rt rd => rType 0x0 rs rt rd 0x0 0x25
  | .xor rs rt rd => rType 0x0 rs rt rd 0x0 0x26
  | .nor rs rt rd => rType 0x0 rs rt rd 0x0 0x27
  | .slt rs rt rd => rType 0x0 rs rt rd 0x0 0x2a
  | .sltu rs rt rd => rType 0x0 rs rt rd 0x0 0x2b
  | .sll rt rd shamt => rType 0x0 0x0 rt rd shamt 0x0
  | .srl rt rd shamt => rType 0x0 0x0 rt rd shamt 0x2
  | .sra rt rd shamt => rType 0x0 0x0 rt rd shamt 0x3
  | .sllv rs rt rd => rType 0x0 rs rt rd 0x0 0x4
  | .srlv rs rt rd => rType 0x0 rs rt rd 0x0 0x6
  | .srav rs rt rd => rType 0x0 rs rt rd 0x0 0x7
  | .mult rs rt => rType 0x0 rs rt 0x0 0x0 0x18
  | .multu rs rt => rType 0x0 rs rt 0x0 0x0 0x19
  | .div rs rt => rType 0x0 rs rt 0x0 0x0 0x1a
  | .divu rs rt => rType 0x0 rs rt 0x0 0x0 0x1b
  | .mfhi rd => rType 0x0 0x0 0x0 rd 0x0 0x10
  | .mthi rs => rType 0x0 rs 0x0 0x0 0x0 0x11
  | .mflo rd => rType 0x0 0x0 0x0 rd 0x0 0x12
  | .mtlo rs => rType 0x0 rs 0x0 0x0 0x0 0x13
  | .j target => jType 0x2 target
  | .jal target => jType 0x3 target
  | .jr rs => rType 0x0 rs 0x0 0x0 0x0 0x8
  | .jalr rs rd => rType 0x0 rs 0x0 rd 0x0 0x9
  | .beq rs rt offset => iType 0x4 rs rt offset
  | .bne rs rt offset => iType 0x5 rs rt offset
  | .blez rs offset => iType 0x6 rs 0x0 offset
  | .bgtz rs offset => iType 0x7 rs 0x0 offset
  | .bltz rs offset => iType 0x1 rs 0x0 offset
  | .bgez rs offset => iType 0x1 rs 0x1 offset
  | .bltzal rs offset => iType 0x1 rs 0x10 offset
  | .bgezal rs offset => iType 0x1 rs 0x11 offset
  | .syscall code => codeType code 0xc
  | .brk code => codeType code 0xd
  | .mfc0 rt rd => rType 0x10 0x0 rt rd 0x0 0x0
  | .mtc0 rt rd => rType 0x10 0x4 rt rd 0x0 0x0
  | .tlbr => rType 0x10 0x10 0x0 0x0 0x0 0x1
  | .tlbwi => rType 0x10 0x10 0x0 0x0 0x0 0x2
  | .tlbwr => rType 0x10 0x10 0x0 0x0 0x0 0x6
  | .tlbp => rType 0x10 0x10 0x0 0x0 0x0 0x8
  | .rfe => rType 0x10 0x10 0x0 0x0 0x0 0x10
  | .bc0f offset => iType 0x10 0x8 0x0 offset
  | .bc0t offset => iType 0x10 0x8 0x1 offset
  | .bc2f offset => iType 0x12 0x8 0x0 offset
  | .bc2t offset => iType 0x12 0x8 0x1 offset
  | .bc3f offset => iType 0x13 0x8 0x0 offset
  | .bc3t offset => iType 0x13 0x8 0x1 offset
  | .lwc1 base ft offset => iType 0x31 base ft offset
  | .swc1 base ft offset => iType 0x39 base ft offset
  | .mfc1 rt fs => rType 0x11 0x0 rt fs 0x0 0x0
  | .cfc1 rt fs => rType 0x11 0x2 rt fs 0x0 0x0
  | .mtc1 rt fs => rType 0x11 0x4 rt fs 0x0 0x0
  | .ctc1 rt fs => rType 0x11 0x6 rt fs 0x0 0x0
  | .bc1f offset => iType 0x11 0x8 0x0 offset
  | .bc1t offset => iType 0x11 0x8 0x1 offset
  | .addS ft fs fd => rType 0x11 0x10 ft fs fd 0x0
  | .addD ft fs fd => rType 0x11 0x11 ft fs fd 0x0
  | .subS ft fs fd => rType 0x11 0x10 ft fs fd 0x1
  | .subD ft fs fd => rType 0x11 0x11 ft fs fd 0x1
  | .mulS ft fs fd => rType 0x11 0x10 ft fs fd 0x2
  | .mulD ft fs fd => rType 0x11 0x11 ft fs fd 0x2
  | .divS ft fs fd => rType 0x11 0x10 ft fs fd 0x3
  | .divD ft fs fd => rType 0x11 0x11 ft fs fd 0x3
  | .absS fs fd => rType 0x11 0x10 0x0 fs fd 0x5
  | .absD fs fd => rType 0x11 0x11 0x0 fs fd 0x5
  | .movS fs fd => rType 0x11 0x10 0x0 fs fd 0x6
  | .movD fs fd => rType 0x11 0x11 0x0 fs fd 0x6
  | .negS fs fd => rType 0x11 0x10 0x0 fs fd 0x7
  | .negD fs fd => rType 0x11 0x11 0x0 fs fd 0x7
  | .cvtSD fs fd => rType 0x11 0x11 0x0 fs fd 0x20
  | .cvtSW fs fd => rType 0x11 0x14 0x0 fs fd 0x20
  | .cvtDS fs fd => rType 0x11 0x10 0x0 fs fd 0x21
  | .cvtDW fs fd => rType 0x11 0x14 0x0 fs fd 0x21
  | .cvtWS fs fd => rType 0x11 0x10 0x0 fs fd 0x24
  | .cvtWD fs fd => rType 0x11 0x11 0x0 fs fd 0x24
  | .cFS ft fs => rType 0x11 0x10 ft fs 0x0 0x30
  | .cFD ft fs => rType 0x11 0x11 ft fs 0x0 0x30
  | .cUnS ft fs => rType 0x11 0x10 ft fs 0x0 0x31
  | .cUnD ft fs => rType 0x11 0x11 ft fs 0x0 0x31
  | .cEqS ft fs => rType 0x11 0x10 ft fs 0x0 0x32
  | .cEqD ft fs => rType 0x11 0x11 ft fs 0x0 0x32
  | .cUeqS ft fs => rType 0x11 0x10 ft fs 0x0 0x33
  | .cUeqD ft fs => rType 0x11 0x11 ft fs 0x0 0x33
  | .cOltS ft fs => rType 0x11 0x10 ft fs 0x0 0x34
  | .cOltD ft fs => rType 0x11 0x11 ft fs 0x0 0x34
  | .cUltS ft fs => rType 0x11 0x10 ft fs 0x0 0x35
  | .cUltD ft fs => rType 0x11 0x11 ft fs 0x0 0x35
  | .cOleS ft fs => rType 0x11 0x10 ft fs 0x0 0x36
  | .cOleD ft fs => rType 0x11 0x11 ft fs 0x0 0x36
  | .cUleS ft fs => rType 0x11 0x10 ft fs 0x0 0x37
  | .cUleD ft fs => rType 0x11 0x11 ft fs 0x0 0x37
  | .cSfS ft fs => rType 0x11 0x10 ft fs 0x0 0x38
  | .cSfD ft fs => rType 0x11 0x11 ft fs 0x0 0x38
  | .cNgleS ft fs => rType 0x11 0x10 ft fs 0x0 0x39
  | .cNgleD ft fs => rType 0x11 0x11 ft fs 0x0 0x39
  | .cSeqS ft fs => rType 0x11 0x10 ft fs 0x0 0x3a
  | .cSeqD ft fs => rType 0x11 0x11 ft fs 0x0 0x3a
  | .cNglS ft fs => rType 0x11 0x10 ft fs 0x0 0x3b
  | .cNglD ft fs => rType 0x11 0x11 ft fs 0x0 0x3b
  | .cLtS ft fs => rType 0x11 0x10 ft fs 0x0 0x3c
  | .cLtD ft fs => rType 0x11 0x11 ft fs 0x0 0x3c
  | .cNgeS ft fs => rType 0x11 0x10 ft fs 0x0 0x3d
  | .cNgeD ft fs => rType 0x11 0x11 ft fs 0x0 0x3d
  | .cLeS ft fs => rType 0x11 0x10 ft fs 0x0 0x3e
  | .cLeD ft fs => rType 0x11 0x11 ft fs 0x0 0x3e
  | .cNgtS ft fs => rType 0x11 0x10 ft fs 0x0 0x3f
  | .cNgtD ft fs => rType 0x11 0x11 ft fs 0x0 0x3f

/-- The bits the decoder looks at, the opcode table's mask (30_encoding.md R164). -/
def opcodeMask : Instr → Word
  | .lb _ _ _ => 0xfc000000
  | .lh _ _ _ => 0xfc000000
  | .lwl _ _ _ => 0xfc000000
  | .lw _ _ _ => 0xfc000000
  | .lbu _ _ _ => 0xfc000000
  | .lhu _ _ _ => 0xfc000000
  | .lwr _ _ _ => 0xfc000000
  | .sb _ _ _ => 0xfc000000
  | .sh _ _ _ => 0xfc000000
  | .swl _ _ _ => 0xfc000000
  | .sw _ _ _ => 0xfc000000
  | .swr _ _ _ => 0xfc000000
  | .addi _ _ _ => 0xfc000000
  | .addiu _ _ _ => 0xfc000000
  | .slti _ _ _ => 0xfc000000
  | .sltiu _ _ _ => 0xfc000000
  | .andi _ _ _ => 0xfc000000
  | .ori _ _ _ => 0xfc000000
  | .xori _ _ _ => 0xfc000000
  | .lui _ _ => 0xfc000000
  | .add _ _ _ => 0xfc00003f
  | .addu _ _ _ => 0xfc00003f
  | .sub _ _ _ => 0xfc00003f
  | .subu _ _ _ => 0xfc00003f
  | .and _ _ _ => 0xfc00003f
  | .or _ _ _ => 0xfc00003f
  | .xor _ _ _ => 0xfc00003f
  | .nor _ _ _ => 0xfc00003f
  | .slt _ _ _ => 0xfc00003f
  | .sltu _ _ _ => 0xfc00003f
  | .sll _ _ _ => 0xfc00003f
  | .srl _ _ _ => 0xfc00003f
  | .sra _ _ _ => 0xfc00003f
  | .sllv _ _ _ => 0xfc00003f
  | .srlv _ _ _ => 0xfc00003f
  | .srav _ _ _ => 0xfc00003f
  | .mult _ _ => 0xfc00003f
  | .multu _ _ => 0xfc00003f
  | .div _ _ => 0xfc00003f
  | .divu _ _ => 0xfc00003f
  | .mfhi _ => 0xfc00003f
  | .mthi _ => 0xfc00003f
  | .mflo _ => 0xfc00003f
  | .mtlo _ => 0xfc00003f
  | .j _ => 0xfc000000
  | .jal _ => 0xfc000000
  | .jr _ => 0xfc00003f
  | .jalr _ _ => 0xfc00003f
  | .beq _ _ _ => 0xfc000000
  | .bne _ _ _ => 0xfc000000
  | .blez _ _ => 0xfc000000
  | .bgtz _ _ => 0xfc000000
  | .bltz _ _ => 0xfc1f0000
  | .bgez _ _ => 0xfc1f0000
  | .bltzal _ _ => 0xfc1f0000
  | .bgezal _ _ => 0xfc1f0000
  | .syscall _ => 0xfc00003f
  | .brk _ => 0xfc00003f
  | .mfc0 _ _ => 0xffe00000
  | .mtc0 _ _ => 0xffe00000
  | .tlbr => 0xfe00001f
  | .tlbwi => 0xfe00001f
  | .tlbwr => 0xfe00001f
  | .tlbp => 0xfe00001f
  | .rfe => 0xfe00001f
  | .bc0f _ => 0xffff0000
  | .bc0t _ => 0xffff0000
  | .bc2f _ => 0xffff0000
  | .bc2t _ => 0xffff0000
  | .bc3f _ => 0xffff0000
  | .bc3t _ => 0xffff0000
  | .lwc1 _ _ _ => 0xfc000000
  | .swc1 _ _ _ => 0xfc000000
  | .mfc1 _ _ => 0xffe00000
  | .cfc1 _ _ => 0xffe00000
  | .mtc1 _ _ => 0xffe00000
  | .ctc1 _ _ => 0xffe00000
  | .bc1f _ => 0xffff0000
  | .bc1t _ => 0xffff0000
  | .addS _ _ _ => 0xffe0003f
  | .addD _ _ _ => 0xffe0003f
  | .subS _ _ _ => 0xffe0003f
  | .subD _ _ _ => 0xffe0003f
  | .mulS _ _ _ => 0xffe0003f
  | .mulD _ _ _ => 0xffe0003f
  | .divS _ _ _ => 0xffe0003f
  | .divD _ _ _ => 0xffe0003f
  | .absS _ _ => 0xffe0003f
  | .absD _ _ => 0xffe0003f
  | .movS _ _ => 0xffe0003f
  | .movD _ _ => 0xffe0003f
  | .negS _ _ => 0xffe0003f
  | .negD _ _ => 0xffe0003f
  | .cvtSD _ _ => 0xffe0003f
  | .cvtSW _ _ => 0xffe0003f
  | .cvtDS _ _ => 0xffe0003f
  | .cvtDW _ _ => 0xffe0003f
  | .cvtWS _ _ => 0xffe0003f
  | .cvtWD _ _ => 0xffe0003f
  | .cFS _ _ => 0xffe0003f
  | .cFD _ _ => 0xffe0003f
  | .cUnS _ _ => 0xffe0003f
  | .cUnD _ _ => 0xffe0003f
  | .cEqS _ _ => 0xffe0003f
  | .cEqD _ _ => 0xffe0003f
  | .cUeqS _ _ => 0xffe0003f
  | .cUeqD _ _ => 0xffe0003f
  | .cOltS _ _ => 0xffe0003f
  | .cOltD _ _ => 0xffe0003f
  | .cUltS _ _ => 0xffe0003f
  | .cUltD _ _ => 0xffe0003f
  | .cOleS _ _ => 0xffe0003f
  | .cOleD _ _ => 0xffe0003f
  | .cUleS _ _ => 0xffe0003f
  | .cUleD _ _ => 0xffe0003f
  | .cSfS _ _ => 0xffe0003f
  | .cSfD _ _ => 0xffe0003f
  | .cNgleS _ _ => 0xffe0003f
  | .cNgleD _ _ => 0xffe0003f
  | .cSeqS _ _ => 0xffe0003f
  | .cSeqD _ _ => 0xffe0003f
  | .cNglS _ _ => 0xffe0003f
  | .cNglD _ _ => 0xffe0003f
  | .cLtS _ _ => 0xffe0003f
  | .cLtD _ _ => 0xffe0003f
  | .cNgeS _ _ => 0xffe0003f
  | .cNgeD _ _ => 0xffe0003f
  | .cLeS _ _ => 0xffe0003f
  | .cLeD _ _ => 0xffe0003f
  | .cNgtS _ _ => 0xffe0003f
  | .cNgtD _ _ => 0xffe0003f

/-- The value of those bits, the opcode table's match (30_encoding.md R164). -/
def opcodeMatch : Instr → Word
  | .lb _ _ _ => 0x80000000
  | .lh _ _ _ => 0x84000000
  | .lwl _ _ _ => 0x88000000
  | .lw _ _ _ => 0x8c000000
  | .lbu _ _ _ => 0x90000000
  | .lhu _ _ _ => 0x94000000
  | .lwr _ _ _ => 0x98000000
  | .sb _ _ _ => 0xa0000000
  | .sh _ _ _ => 0xa4000000
  | .swl _ _ _ => 0xa8000000
  | .sw _ _ _ => 0xac000000
  | .swr _ _ _ => 0xb8000000
  | .addi _ _ _ => 0x20000000
  | .addiu _ _ _ => 0x24000000
  | .slti _ _ _ => 0x28000000
  | .sltiu _ _ _ => 0x2c000000
  | .andi _ _ _ => 0x30000000
  | .ori _ _ _ => 0x34000000
  | .xori _ _ _ => 0x38000000
  | .lui _ _ => 0x3c000000
  | .add _ _ _ => 0x00000020
  | .addu _ _ _ => 0x00000021
  | .sub _ _ _ => 0x00000022
  | .subu _ _ _ => 0x00000023
  | .and _ _ _ => 0x00000024
  | .or _ _ _ => 0x00000025
  | .xor _ _ _ => 0x00000026
  | .nor _ _ _ => 0x00000027
  | .slt _ _ _ => 0x0000002a
  | .sltu _ _ _ => 0x0000002b
  | .sll _ _ _ => 0x00000000
  | .srl _ _ _ => 0x00000002
  | .sra _ _ _ => 0x00000003
  | .sllv _ _ _ => 0x00000004
  | .srlv _ _ _ => 0x00000006
  | .srav _ _ _ => 0x00000007
  | .mult _ _ => 0x00000018
  | .multu _ _ => 0x00000019
  | .div _ _ => 0x0000001a
  | .divu _ _ => 0x0000001b
  | .mfhi _ => 0x00000010
  | .mthi _ => 0x00000011
  | .mflo _ => 0x00000012
  | .mtlo _ => 0x00000013
  | .j _ => 0x08000000
  | .jal _ => 0x0c000000
  | .jr _ => 0x00000008
  | .jalr _ _ => 0x00000009
  | .beq _ _ _ => 0x10000000
  | .bne _ _ _ => 0x14000000
  | .blez _ _ => 0x18000000
  | .bgtz _ _ => 0x1c000000
  | .bltz _ _ => 0x04000000
  | .bgez _ _ => 0x04010000
  | .bltzal _ _ => 0x04100000
  | .bgezal _ _ => 0x04110000
  | .syscall _ => 0x0000000c
  | .brk _ => 0x0000000d
  | .mfc0 _ _ => 0x40000000
  | .mtc0 _ _ => 0x40800000
  | .tlbr => 0x42000001
  | .tlbwi => 0x42000002
  | .tlbwr => 0x42000006
  | .tlbp => 0x42000008
  | .rfe => 0x42000010
  | .bc0f _ => 0x41000000
  | .bc0t _ => 0x41010000
  | .bc2f _ => 0x49000000
  | .bc2t _ => 0x49010000
  | .bc3f _ => 0x4d000000
  | .bc3t _ => 0x4d010000
  | .lwc1 _ _ _ => 0xc4000000
  | .swc1 _ _ _ => 0xe4000000
  | .mfc1 _ _ => 0x44000000
  | .cfc1 _ _ => 0x44400000
  | .mtc1 _ _ => 0x44800000
  | .ctc1 _ _ => 0x44c00000
  | .bc1f _ => 0x45000000
  | .bc1t _ => 0x45010000
  | .addS _ _ _ => 0x46000000
  | .addD _ _ _ => 0x46200000
  | .subS _ _ _ => 0x46000001
  | .subD _ _ _ => 0x46200001
  | .mulS _ _ _ => 0x46000002
  | .mulD _ _ _ => 0x46200002
  | .divS _ _ _ => 0x46000003
  | .divD _ _ _ => 0x46200003
  | .absS _ _ => 0x46000005
  | .absD _ _ => 0x46200005
  | .movS _ _ => 0x46000006
  | .movD _ _ => 0x46200006
  | .negS _ _ => 0x46000007
  | .negD _ _ => 0x46200007
  | .cvtSD _ _ => 0x46200020
  | .cvtSW _ _ => 0x46800020
  | .cvtDS _ _ => 0x46000021
  | .cvtDW _ _ => 0x46800021
  | .cvtWS _ _ => 0x46000024
  | .cvtWD _ _ => 0x46200024
  | .cFS _ _ => 0x46000030
  | .cFD _ _ => 0x46200030
  | .cUnS _ _ => 0x46000031
  | .cUnD _ _ => 0x46200031
  | .cEqS _ _ => 0x46000032
  | .cEqD _ _ => 0x46200032
  | .cUeqS _ _ => 0x46000033
  | .cUeqD _ _ => 0x46200033
  | .cOltS _ _ => 0x46000034
  | .cOltD _ _ => 0x46200034
  | .cUltS _ _ => 0x46000035
  | .cUltD _ _ => 0x46200035
  | .cOleS _ _ => 0x46000036
  | .cOleD _ _ => 0x46200036
  | .cUleS _ _ => 0x46000037
  | .cUleD _ _ => 0x46200037
  | .cSfS _ _ => 0x46000038
  | .cSfD _ _ => 0x46200038
  | .cNgleS _ _ => 0x46000039
  | .cNgleD _ _ => 0x46200039
  | .cSeqS _ _ => 0x4600003a
  | .cSeqD _ _ => 0x4620003a
  | .cNglS _ _ => 0x4600003b
  | .cNglD _ _ => 0x4620003b
  | .cLtS _ _ => 0x4600003c
  | .cLtD _ _ => 0x4620003c
  | .cNgeS _ _ => 0x4600003d
  | .cNgeD _ _ => 0x4620003d
  | .cLeS _ _ => 0x4600003e
  | .cLeD _ _ => 0x4620003e
  | .cNgtS _ _ => 0x4600003f
  | .cNgtD _ _ => 0x4620003f

/-- The word four bytes hold, the first at the lowest address, in a byte order (20_memory.md R81,
R83). -/
def wordOfBytes (bigEndian : Bool) (b0 b1 b2 b3 : Byte) : Word :=
  if bigEndian then b0 ++ b1 ++ b2 ++ b3 else b3 ++ b2 ++ b1 ++ b0

/-- The bytes of a word in the order memory holds them (20_memory.md R81). -/
def bytesOfWord (bigEndian : Bool) (w : Word) : List Byte :=
  let lanes := [w.extractLsb' 24 8, w.extractLsb' 16 8, w.extractLsb' 8 8, w.extractLsb' 0 8]
  if bigEndian then lanes else lanes.reverse

/-- Why a list of bytes does not start with an instruction. -/
inductive BytesError where
  /-- Fewer than the four bytes every instruction has (30_encoding.md R140). -/
  | truncated
  /-- The first word is not an instruction of the table. -/
  | undefined (e : DecodeError)
deriving DecidableEq, Repr

/-- Decode the instruction at the front of a list of bytes; total on any bytes. Every instruction is
one word (30_encoding.md R140). -/
def decodeBytes (bigEndian : Bool) : List Byte → Except BytesError (Instr × List Byte)
  | b0 :: b1 :: b2 :: b3 :: rest =>
    match decode (wordOfBytes bigEndian b0 b1 b2 b3) with
    | .ok i => .ok (i, rest)
    | .error e => .error (.undefined e)
  | _ => .error .truncated

/-- The instruction the decoder reads from an instruction of `nbits` bits numbered as
spec/opcode_table.json numbers them; the bits above `nbits` are zero. The bytes are laid out
big-endian, the order `State.reset` selects (log 45). -/
def decodeTableWord (nbits w : Nat) : Option Instr :=
  match decodeBytes true (bytesOfWord true (BitVec.ofNat 32 (w % 2 ^ nbits))) with
  | .ok (i, _) => some i
  | .error _ => none

end Sys2Proof
end

