-- ==== Sys2Proof/Config.lean ====
section
/-! DEFINITION. What an implementation or a board fixes, and the values the spec leaves open.

The parameters of 00_scope.md R8 are plain data, held in `State.chip` and `State.mode`, so that a
statement about every state is a statement about every variant and every mode vector.
The free values are opaque: nothing in Lean can prove what they are. -/

namespace Sys2Proof

/-- The four parts (00_scope.md R3, R8). -/
inductive Variant where
  | r3071 | r3071E | r3081 | r3081E
deriving DecidableEq, Repr

/-- The parameters fixed for a chip (00_scope.md R8). -/
structure Chip where
  variant : Variant
  /-- `ConfigRev`, the read-only Config.Rev bit (10_state.md R61). -/
  configRevA : Bool
  /-- `FCR0Rev`, the revision byte of FCR0 (10_state.md R62). -/
  fcr0Rev : Byte
  /-- `FpTinyAfterRounding` (45_fpa_formats.md R330). -/
  fpTinyAfterRounding : Bool
deriving DecidableEq, Repr

/-- `hasFPA`: the R3081 and R3081E (00_scope.md R3). -/
def Chip.hasFpa (c : Chip) : Bool :=
  match c.variant with
  | .r3071 => false
  | .r3071E => false
  | .r3081 => true
  | .r3081E => true

/-- `hasTLB`: the E versions (00_scope.md R3). -/
def Chip.hasTlb (c : Chip) : Bool :=
  match c.variant with
  | .r3071 => false
  | .r3071E => true
  | .r3081 => false
  | .r3081E => true

/-- The six mode-vector bits latched at the end of reset; `true` means the feature is selected,
whatever the level of its pin (10_state.md R79, 70_reset_and_hazards.md R484). -/
structure ModeVector where
  bigEndian : Bool
  dBlockRefill : Bool
  halfFreqBus : Bool
  coherentDmaEn : Bool
  clockMode1x : Bool
  triState : Bool
deriving DecidableEq, Repr

/-- DESIGN CHOICE (log 1): the part `State.reset` describes. -/
def Config.resetChip : Chip :=
  { variant := .r3081E, configRevA := false, fcr0Rev := 0, fpTinyAfterRounding := true }

/-- DESIGN CHOICE (log 1): all six mode pins high, the case App.A describes
(70_reset_and_hazards.md R484). -/
def Config.resetMode : ModeVector :=
  { bigEndian := true, dBlockRefill := true, halfFreqBus := false, coherentDmaEn := false,
    clockMode1x := false, triState := false }

/-- What a free value stands for: one name for each value the spec leaves open ("draw" in
92_eei_decisions.md). -/
inductive FreeUse where
  /-- Old or new value of a register read in its load delay slot (40_load_store.md R171, D5). -/
  | loadDelay
  /-- Old or new value of an FGR read right after LWC1 or MTC1 (46_fpa_instructions.md R367 a). -/
  | fpLoadDelay
  /-- Old or new FCR31.C tested right after a compare (46_fpa_instructions.md R367 b). -/
  | condDelay
  /-- HI after a division with no stated result (41_computational.md R235). -/
  | hiValue
  /-- LO after a division with no stated result (41_computational.md R235). -/
  | loValue
  /-- FGR[fd+1] after a 32-bit FPA result (46_fpa_instructions.md R344). -/
  | fgrOdd
  /-- Reserved bits of FCR31 on a read (10_state.md R64). -/
  | fcr31Reserved
  /-- A reserved CP0 register on a read (10_state.md R28). -/
  | cp0Reserved
  /-- A TLB register of a base version on a read (10_state.md R34). -/
  | cp0NoTlb
  /-- Status.CM read while the cache is not isolated (20_memory.md R131, D39). -/
  | statusCm
  /-- Cause.CE after an exception other than CpU (10_state.md R50). -/
  | causeCe
  /-- Context.BadVPN after an address error (60_exceptions.md R424). -/
  | contextBadVpn
  /-- EntryHi.VPN after an address error (60_exceptions.md R424). -/
  | entryHiVpn
  /-- Index.Index after a failed probe (44_cp0_instructions.md R295, D40). -/
  | probeIndex
  /-- The Random counter (10_state.md R33, D26). -/
  | random
  /-- Whether a fetch finds bad parity in an entry stored under Status.PZ (20_memory.md R132). -/
  | fetchParity
  /-- Whether a data access finds bad parity in such an entry (20_memory.md R132). -/
  | dataParity
  /-- Whether a line survives an instruction refill that ended in a bus error (R546, D43). -/
  | fetchErrorLine
  /-- Whether a line survives a data refill that ended in a bus error (R546, D43). -/
  | dataErrorLine
  /-- A cache data word after a change of Config.AC, before it is written (20_memory.md R127). -/
  | cacheWord
  /-- Whether an isolated load hits a tag not yet written after a change of Config.AC (R127). -/
  | cacheHit
  /-- Old or new Config.Lock in the ten-instruction window (70_reset_and_hazards.md R511). -/
  | configLock
  /-- Old or new Config.DBRefill in the window (R511). -/
  | configDbRefill
  /-- Old or new Config.FPInt in the window (R511). -/
  | configFpInt
  /-- Old or new Config.Halt in the window (R511). -/
  | configHalt
  /-- Old or new Config.AC in the window (R511). -/
  | configAc
  /-- The physical address of a reference that matches two TLB entries (20_memory.md R109, R112). -/
  | shutdownAddress
  /-- The cacheability of a reference that matches two TLB entries (20_memory.md R109, R112). -/
  | shutdownCacheable
deriving DecidableEq, Repr

/-- The free values: an arbitrary word for each use and each draw number (log 6). It has no body;
a claim that mentions it holds whatever it is. -/
opaque Config.freeWord : FreeUse → Nat → Word

/-- A free choice between two outcomes: one bit of the free word. -/
def Config.freeBit (u : FreeUse) (n : Nat) : Bool := (Config.freeWord u n).getLsbD 0

end Sys2Proof
end

