-- ==== Sys2Proof/Machine/State.lean ====
section
/-! DEFINITION. The state of the machine, the reasons a step can stop, and the state after reset.
Plain data only: registers, TLB, caches, write buffer, memory, sequencing state and the sampled
environment. Operations over it stand in the other files of Machine/. -/

namespace Sys2Proof.Machine

/-! ## CP0 (10_state.md section 2) -/

/-- Index, CP0 $0 (10_state.md R29). -/
structure IndexReg where
  p : Bool
  index : BitVec 6
deriving DecidableEq, Repr

/-- EntryLo, CP0 $2, and the low word of a TLB entry (10_state.md R30, R32). -/
structure EntryLo where
  pfn : BitVec 20
  n : Bool
  d : Bool
  v : Bool
  g : Bool
deriving DecidableEq, Repr

/-- EntryHi, CP0 $10, and the high word of a TLB entry (10_state.md R31, R32). -/
structure EntryHi where
  vpn : BitVec 20
  pid : BitVec 6
deriving DecidableEq, Repr

/-- One TLB entry (10_state.md R32). -/
structure TlbEntry where
  hi : EntryHi
  lo : EntryLo
deriving DecidableEq, Repr

/-- The writable fields of Config, CP0 $3 (10_state.md R53); Rev is `Chip.configRevA`. -/
structure ConfigReg where
  lock : Bool
  slowBus : Bool
  dbRefill : Bool
  fpInt : BitVec 3
  halt : Bool
  rf : Bool
  ac : Bool
deriving DecidableEq, Repr

/-- Context, CP0 $4 (10_state.md R35). -/
structure ContextReg where
  pteBase : BitVec 11
  badVpn : BitVec 19
deriving DecidableEq, Repr

/-- Status, CP0 $12 (10_state.md R37). `cu` bit z is CUz; `im` bit k is Status bit 8 + k (R47). -/
structure StatusReg where
  cu : BitVec 4
  re : Bool
  bev : Bool
  ts : Bool
  pe : Bool
  cm : Bool
  pz : Bool
  swc : Bool
  isc : Bool
  im : BitVec 8
  kuo : Bool
  ieo : Bool
  kup : Bool
  iep : Bool
  kuc : Bool
  iec : Bool
deriving DecidableEq, Repr

/-- The stored fields of Cause, CP0 $13 (10_state.md R50); IP is live (60_exceptions.md R442). -/
structure CauseReg where
  bd : Bool
  ce : BitVec 2
  sw : BitVec 2
  excCode : BitVec 5
deriving DecidableEq, Repr

/-- The CP0 registers (10_state.md R26); PRId is a constant. -/
structure Cp0 where
  index : IndexReg
  random : BitVec 6
  entryLo : EntryLo
  config : ConfigReg
  context : ContextReg
  badVAddr : Word
  entryHi : EntryHi
  status : StatusReg
  cause : CauseReg
  epc : Word
deriving DecidableEq, Repr

/-! ## FPA (10_state.md section 3) -/

/-- FCR31 (10_state.md R64). `exceptions` is E V Z O U I from bit 5 to bit 0 (R66), `enables` and
`sticky` are V Z O U I from bit 4 to bit 0 (R67, R68). -/
structure Fcr31 where
  c : Bool
  exceptions : BitVec 6
  enables : BitVec 5
  sticky : BitVec 5
  rm : BitVec 2
deriving DecidableEq, Repr

/-! ## Caches and write buffer -/

/-- A cache tag: valid bit, TAG(31:12), and whether it was stored under Status.PZ, so that its parity
may read bad (20_memory.md R124, R132). An invalid tag keeps no address. -/
structure CacheTag where
  valid : Bool
  tag : BitVec 20
  suspect : Bool
deriving DecidableEq, Repr

/-- A cache data word, and whether it was stored under Status.PZ (20_memory.md R124, R132). -/
structure CacheData where
  word : Word
  suspect : Bool
deriving DecidableEq, Repr

/-- One cache array, as sorted lists of what differs from an invalid tag or a zero word. After a change
of Config.AC the unlisted entries are undefined (20_memory.md R127). -/
structure Cache where
  tags : List (Nat × CacheTag)
  data : List (Nat × CacheData)
  tagsUndefined : Bool
  dataUndefined : Bool
deriving DecidableEq, Repr

/-- Which physical array: the instruction-cache array or the data-cache array (20_memory.md R129). -/
inductive CacheSide where
  | instr
  | data
deriving DecidableEq, Repr

/-- A word of a read that has arrived and is not yet in its cache array (10_state.md R73). -/
structure BufferedRead where
  side : CacheSide
  addr : WordAddr
  word : Word
deriving DecidableEq, Repr

/-- One write-buffer entry: address, byte enables, data (10_state.md R72, 20_memory.md R120). -/
structure PendingStore where
  addr : WordAddr
  lanes : Lanes
  data : Word
deriving DecidableEq, Repr

/-! ## Environment (71_bus_interface.md R540) -/

/-- The answer to the reads of one step: memory supplies the last value written, a device supplies four
words of its own for the aligned block, BusError ends the read, or nothing ever answers and the core
waits until Reset (71_bus_interface.md R540, R545, R546; 93_implementation_defined.md U23). -/
inductive BusReply where
  | memory
  | device (w0 w1 w2 w3 : Word)
  | busError
  | noAnswer
deriving DecidableEq, Repr

/-- How a write on the bus ends: acknowledged (by Ack or BusError) and stored by the environment,
acknowledged and not stored, or never acknowledged (71_bus_interface.md R548). -/
inductive WriteReply where
  | stored
  | ignored
  | noAnswer
deriving DecidableEq, Repr

/-- One word written by a DMA master, with IvdReq (71_bus_interface.md R560, R563). -/
structure DmaWrite where
  addr : WordAddr
  lanes : Lanes
  data : Word
  invalidate : Bool
deriving DecidableEq, Repr

/-- What the bus does between two transactions of the CPU: the oldest posted write goes out, or a master
is granted the bus and writes (20_memory.md R120, 71_bus_interface.md R560). -/
inductive BusEvent where
  | write (reply : WriteReply)
  | dma (writes : List DmaWrite)
deriving DecidableEq, Repr

/-- What the bus does between two instructions: the same, or a grant with CohReq, which comes only at an
instruction boundary (71_bus_interface.md R562). -/
inductive BoundaryEvent where
  | bus (e : BusEvent)
  | coherentDma (writes : List DmaWrite)
deriving DecidableEq, Repr

/-- The inputs sampled at one step (60_exceptions.md R441, 43_special_coprocessor.md R272,
70_reset_and_hazards.md R482). `int` bit n is Int(n), 1 when asserted, whatever the pin's polarity.
`events` come before the instruction, `dataEvents` between its fetch and its data access
(71_bus_interface.md R560). -/
structure BusInput where
  int : BitVec 6
  brCond0 : Bool
  brCond2 : Bool
  brCond3 : Bool
  events : List BoundaryEvent
  reset : Option ModeVector
  fetchReply : BusReply
  dataEvents : List BusEvent
  dataReply : BusReply
deriving DecidableEq, Repr

/-! ## Sequencing -/

/-- The state between instructions (10_state.md R76 and the hazards of 70_reset_and_hazards.md). -/
structure Sequencing where
  /-- The previous instruction was a jump or branch (R76 b). -/
  inDelaySlot : Bool
  /-- A load, MFC0, MFC1 or CFC1 result not yet delivered (R76 c, d). -/
  loadPending : Option (Reg × Word)
  /-- An LWC1 or MTC1 result not yet delivered (R76 e). -/
  fpLoadPending : Option (Reg × Word)
  /-- FCR31.C as it was before the compare or CTC1 just executed (R76 f). -/
  condPending : Option Bool
  /-- The previous instruction wrote Index, EntryLo or EntryHi with MTC0 (R76 g, R507). -/
  cp0WriteWindow : Bool
  /-- The previous step was an instruction that changed IsC or SwC (R509; log 56). -/
  cacheCtlWindow : Bool
  /-- This instruction was fetched from a cacheable address (R509). -/
  fetchCached : Bool
  /-- The instruction fetched before this one was fetched from a cacheable address (R509; log 56). -/
  prevFetchCached : Bool
  /-- The Config fields in force before the last MTC0 to Config (R511). -/
  configOld : ConfigReg
  /-- How many of the ten instructions after it are still to come (R511). -/
  configWindow : Nat
  /-- The core is in the Halt stall (60_exceptions.md R472). -/
  halted : Bool
  /-- The oldest posted write is on the bus and is never acknowledged: its data stand in the special data
  buffer of the bus interface, and its slot of the write buffer is free (71_bus_interface.md R548,
  R551). -/
  busBlocked : Bool
  /-- The core waits for a bus transaction that never ends; only Reset ends the wait
  (71_bus_interface.md R545, R548; 93_implementation_defined.md U23). -/
  waiting : Bool
  /-- BrCond(0), (2), (3) as sampled at the start of the previous instruction
  (43_special_coprocessor.md R270); for the first instruction after reset see log 53. -/
  condLatch0 : Bool
  condLatch2 : Bool
  condLatch3 : Bool
  /-- The model's own: the number the next free value is drawn at (log 6). -/
  draws : Nat
deriving DecidableEq, Repr

/-- The whole machine. -/
structure State where
  /-- Which part this is (00_scope.md R8). -/
  chip : Chip
  /-- The mode vector of the last reset (10_state.md R79). -/
  mode : ModeVector
  /-- General registers; r0 is read and written through `State.readReg` and `State.writeReg`
  (10_state.md R20, R21). -/
  gpr : Vector Word 32
  hi : Word
  lo : Word
  /-- The address of the instruction being executed (10_state.md R24). -/
  pc : Word
  /-- The address of the next one (10_state.md R76 a). -/
  nextPc : Word
  cp0 : Cp0
  /-- 10_state.md R32. -/
  tlb : Vector TlbEntry 64
  /-- 10_state.md R63. -/
  fgr : Vector Word 32
  fcr31 : Fcr31
  /-- The FPA's interrupt line was asserted before Exceptions was last loaded, and no CTC1 has lowered it
  since (60_exceptions.md R450, R455). -/
  fpaHeld : Bool
  icache : Cache
  dcache : Cache
  /-- Physical memory (20_memory.md R80), canonical by `Memory.wf`. -/
  mem : List Host.Cell
  /-- The posted writes not yet acknowledged, oldest first: the four entries of the write buffer, before
  them the write on the bus while `seq.busBlocked` (20_memory.md R120, 71_bus_interface.md R551). -/
  writeBuffer : List PendingStore
  /-- At most four words (10_state.md R73). -/
  readBuffer : List BufferedRead
  seq : Sequencing
  /-- The inputs of this step. -/
  env : BusInput
  /-- The inputs of the coming steps; when it is empty the pins stay as they are (log 5). -/
  inputs : List BusInput
deriving DecidableEq, Repr

/-- A stop with no next state that is no refusal. There is none: what the spec calls a fault is an
exception, which is taken, and a core that is stuck makes stalled steps until Reset
(93_implementation_defined.md U1, U21 to U23). -/
inductive Fault where
deriving DecidableEq, Repr

/-- The model assigns no meaning, because the spec does not: each constructor names the rule that
refuses. All are safe: nothing is claimed of what the hardware does there. -/
inductive Refusal where
  /-- An instruction with no meaning in the model, by its mnemonic. Raised by no meaning. -/
  | notModelled (mnemonic : String)
  /-- A jump or branch in a delay slot (42_jump_branch.md R254): every jump and branch. -/
  | branchInDelaySlot
  /-- A CP1 instruction with CU1 = 1 on a part with no FPA (43_special_coprocessor.md R276). -/
  | noFpa
  /-- An odd FPR number (46_fpa_instructions.md R343): computational, conversion, compare. -/
  | oddFpr
  /-- An FPA control register other than 0 and 31 (46_fpa_instructions.md R349, R350): CFC1, CTC1. -/
  | reservedFcr
  /-- A TLB instruction on a base version (44_cp0_instructions.md R298). -/
  | tlbAbsent
  /-- A kuseg or kseg2 reference after TLB shutdown (20_memory.md R112): fetches, loads, stores. -/
  | tlbShutdown
  /-- TLBP with two matching entries (44_cp0_instructions.md R295). -/
  | tlbMultipleMatch
  /-- A TLB instruction right after MTC0 to Index, EntryLo or EntryHi (70_reset_and_hazards.md R507). -/
  | cp0WriteWindow
  /-- An uncached data access while the cache is isolated (20_memory.md R128): loads and stores. -/
  | isolatedUncached
  /-- IsC or SwC changed next to cacheable fetches (70_reset_and_hazards.md R509): MTC0, fetches. -/
  | cacheControlCached
  /-- A cacheable access between a change of Config.AC and the flushes (R510): fetches, loads, stores. -/
  | cacheNotFlushed
  /-- A fetch from memory of a word that has a store pending in the write buffer
  (70_reset_and_hazards.md R514, D42): fetches. -/
  | fetchPendingStore
  /-- MTC0 writing Config.FPInt = 11x on an R3081 (10_state.md R57). -/
  | reservedFpInt
  /-- A BCOND word with no meaning (30_encoding.md R160 c). -/
  | undefinedBcond
  /-- A coprocessor word with no meaning (30_encoding.md R160 d, e, g, h). -/
  | undefinedCoprocessorOp (z : BitVec 2)
  /-- A coherent DMA invalidation while the caches are swapped (71_bus_interface.md R563). -/
  | coherentInvalidateSwapped
deriving DecidableEq, Repr

/-! ## Reset (10_state.md R78, 70_reset_and_hazards.md R482) -/

/-- DESIGN CHOICE (log 2): the word a register holds after reset where R78 gives none. -/
def resetWord : Word := 0

/-- Config after reset (10_state.md R54 to R60). -/
def resetConfig (m : ModeVector) : ConfigReg :=
  { lock := false, slowBus := m.halfFreqBus, dbRefill := m.dBlockRefill, fpInt := 3, halt := false,
    rf := false, ac := false }

/-- EntryLo with every field 0 (DESIGN CHOICE, log 2). -/
def resetEntryLo : EntryLo := { pfn := 0, n := false, d := false, v := false, g := false }

/-- EntryHi with every field 0 (DESIGN CHOICE, log 2). -/
def resetEntryHi : EntryHi := { vpn := 0, pid := 0 }

/-- TLB entry `i` after reset: not valid, naming a kseg0 page that is never looked up, each its own
(20_memory.md R138 for the choice of page; DESIGN CHOICE, log 2). -/
def resetTlbEntry (i : Fin 64) : TlbEntry :=
  { hi := { vpn := 0x80000 + BitVec.ofNat 20 i.val, pid := 0 }, lo := resetEntryLo }

/-- Status after reset: BEV = 1, SwC = KUc = IEc = 0, TS = 1 exactly on base versions (R78); the other
fields 0 (DESIGN CHOICE, log 2). -/
def resetStatus (chip : Chip) : StatusReg :=
  { cu := 0, re := false, bev := true, ts := !chip.hasTlb, pe := false, cm := false, pz := false,
    swc := false, isc := false, im := 0, kuo := false, ieo := false, kup := false, iep := false,
    kuc := false, iec := false }

/-- CP0 after reset: Random = 63, Config and Status as R78 says, the rest 0 (log 2). -/
def resetCp0 (chip : Chip) (m : ModeVector) : Cp0 :=
  { index := { p := false, index := 0 }, random := 63, entryLo := resetEntryLo,
    config := resetConfig m, context := { pteBase := 0, badVpn := 0 }, badVAddr := resetWord,
    entryHi := resetEntryHi, status := resetStatus chip,
    cause := { bd := false, ce := 0, sw := 0, excCode := 0 }, epc := resetWord }

/-- A cache with every entry invalid and every word 0 (DESIGN CHOICE, log 3). -/
def resetCache : Cache := { tags := [], data := [], tagsUndefined := false, dataUndefined := false }

/-- The sequencing state after reset (70_reset_and_hazards.md R482 (4)). R270 and R482 give the condition
latches no value: low, as the quiet pins are (DESIGN CHOICE, log 53). -/
def resetSequencing (m : ModeVector) : Sequencing :=
  { inDelaySlot := false, loadPending := none, fpLoadPending := none, condPending := none,
    cp0WriteWindow := false, cacheCtlWindow := false, fetchCached := false, prevFetchCached := false,
    configOld := resetConfig m, configWindow := 0, halted := false, busBlocked := false,
    waiting := false, condLatch0 := false,
    condLatch2 := false, condLatch3 := false, draws := 0 }

/-- DESIGN CHOICE (log 5): no interrupt asserted, BrCond low, no bus event, reads answered by memory. -/
def quietInput : BusInput :=
  { int := 0, brCond0 := false, brCond2 := false, brCond3 := false, events := [], reset := none,
    fetchReply := .memory, dataEvents := [], dataReply := .memory }

/-- The state after reset of a given part under given mode pins (10_state.md R78), memory with nothing
listed. -/
def State.resetOf (chip : Chip) (m : ModeVector) : State :=
  { chip := chip, mode := m, gpr := Vector.replicate 32 resetWord, hi := resetWord, lo := resetWord,
    pc := 0xbfc00000, nextPc := 0xbfc00004, cp0 := resetCp0 chip m,
    tlb := Vector.ofFn resetTlbEntry,
    fgr := Vector.replicate 32 resetWord,
    fcr31 := { c := false, exceptions := 0, enables := 0, sticky := 0, rm := 0 }, fpaHeld := false,
    icache := resetCache, dcache := resetCache, mem := [], writeBuffer := [], readBuffer := [],
    seq := resetSequencing m, env := quietInput, inputs := [] }

/-- The machine right after reset: the part and mode pins of log 1. -/
def State.reset : State := State.resetOf Config.resetChip Config.resetMode

end Sys2Proof.Machine
end

