-- ==== Sys2Proof/Machine/Memory.lean ====
section
/-! DEFINITION. Physical memory and the write buffer: sorted sparse lists in one canonical form, bytes,
words and lanes, and what retiring a posted store does (20_memory.md sections 2, 8). -/

namespace Sys2Proof.Machine

/-! ## Sparse maps -/

/-- What a sorted list holds at a key, if it lists one. -/
def Sparse.lookup {β : Type} : List (Nat × β) → Nat → Option β
  | [], _ => none
  | (k, v) :: t, a => if k = a then some v else Sparse.lookup t a

/-- Put a value at a key, in order, replacing what stood there. -/
def Sparse.insert {β : Type} (a : Nat) (v : β) : List (Nat × β) → List (Nat × β)
  | [] => [(a, v)]
  | (k, w) :: t =>
    if a < k then (a, v) :: (k, w) :: t
    else if a = k then (a, v) :: t
    else (k, w) :: Sparse.insert a v t

/-- Remove a key. -/
def Sparse.erase {β : Type} (a : Nat) (l : List (Nat × β)) : List (Nat × β) :=
  l.filter (fun e => !(e.1 == a))

/-- The value at a key, `d` where the list has none. -/
def Sparse.get {β : Type} (d : β) (l : List (Nat × β)) (a : Nat) : β :=
  match Sparse.lookup l a with
  | some v => v
  | none => d

/-- Set the value at a key, keeping the canonical form: the default value is not listed. -/
def Sparse.set {β : Type} [DecidableEq β] (d : β) (l : List (Nat × β)) (a : Nat) (v : β) :
    List (Nat × β) :=
  if v = d then Sparse.erase a l else Sparse.insert a v l

/-- The canonical form: keys strictly rising and below a bound, no entry equal to the default. -/
def Sparse.wf {β : Type} [DecidableEq β] (d : β) (bound : Nat) : List (Nat × β) → Bool
  | [] => true
  | (k, v) :: t =>
    decide (k < bound) && decide (v ≠ d) && t.all (fun e => decide (k < e.1)) && Sparse.wf d bound t

/-! ## Bytes and words of memory -/

/-- What a byte of memory that nothing has written reads as (DESIGN CHOICE, log 4). -/
def unlistedByte : Byte := 0

/-- The canonical form of memory: the 2^32 byte lanes of the physical space (20_memory.md R80, R82). -/
def Memory.wf (m : List Host.Cell) : Bool := Sparse.wf unlistedByte (2 ^ 32) m

/-- One byte lane of physical memory. -/
def Memory.read (m : List Host.Cell) (a : Nat) : Byte := Sparse.get unlistedByte m a

/-- Write one byte lane of physical memory. -/
def Memory.write (m : List Host.Cell) (a : Nat) (b : Byte) : List Host.Cell :=
  Sparse.set unlistedByte m a b

/-- Where memory keeps a lane of a word: memory is words with lanes, whatever the byte order
(20_memory.md R82). -/
def laneCell (w : WordAddr) (lane : Nat) : Nat := 4 * w.toNat + lane

/-- The byte address of a lane of a memory word, in a byte order (20_memory.md R81, R82, R86). -/
def laneAddress (bigEndian : Bool) (w : WordAddr) (lane : Nat) : Nat :=
  4 * w.toNat + (if bigEndian then 3 - lane else lane)

/-- Where memory keeps the byte at a byte address, in a byte order (20_memory.md R81, R86). -/
def byteCell (bigEndian : Bool) (a : Nat) : Nat :=
  if bigEndian then 4 * (a / 4) + (3 - a % 4) else a

/-- `PM[w]`: a word of physical memory, lane 3 the most significant (20_memory.md R82). -/
def Memory.readWord (m : List Host.Cell) (w : WordAddr) : Word :=
  Memory.read m (laneCell w 3) ++ Memory.read m (laneCell w 2) ++
    Memory.read m (laneCell w 1) ++ Memory.read m (laneCell w 0)

/-- Write one lane of a word when its byte enable is set. -/
def Memory.writeLane (w : WordAddr) (lanes : Lanes) (data : Word) (m : List Host.Cell) (k : Nat) :
    List Host.Cell :=
  if lanes.getLsbD k then Memory.write m (laneCell w k) (data.extractLsb' (8 * k) 8) else m

/-- One bus write: the enabled lanes of a word (71_bus_interface.md R547). -/
def Memory.writeLanes (m : List Host.Cell) (w : WordAddr) (lanes : Lanes) (data : Word) :
    List Host.Cell :=
  [0, 1, 2, 3].foldl (Memory.writeLane w lanes data) m

/-! ## The write buffer -/

/-- Memory after a posted store has been written (20_memory.md R120). -/
def Memory.apply (m : List Host.Cell) (e : PendingStore) : List Host.Cell :=
  Memory.writeLanes m e.addr e.lanes e.data

/-- Memory as it is once every pending store has been written, in order (20_memory.md R120, R121). -/
def State.settledMemory (s : State) : List Host.Cell := s.writeBuffer.foldl Memory.apply s.mem

/-- The byte at a byte address, in the byte order selected at reset, as the CPU's own stores leave it:
pending ones included (20_memory.md R81, R121). -/
def State.memoryByte (s : State) (a : Nat) : Byte :=
  Memory.read s.settledMemory (byteCell s.mode.bigEndian a)

/-- One word of memory in the same sense. -/
def State.memoryWord (s : State) (w : WordAddr) : Word := Memory.readWord s.settledMemory w

/-- The oldest pending store is written to memory (20_memory.md R120). -/
def State.retireWrite (s : State) : State :=
  match s.writeBuffer with
  | [] => s
  | e :: rest => { s with mem := Memory.apply s.mem e, writeBuffer := rest }

/-- The oldest pending store leaves the buffer and the environment does not store it
(71_bus_interface.md R548). -/
def State.dropWrite (s : State) : State := { s with writeBuffer := s.writeBuffer.tail }

/-- The oldest pending store is on the bus and nothing acknowledges it; its slot of the write buffer is
free (71_bus_interface.md R548, R551). -/
def State.blockBus (s : State) : State :=
  if s.writeBuffer.isEmpty then s else { s with seq := { s.seq with busBlocked := true } }

/-- The oldest pending store goes out on the bus (71_bus_interface.md R548). -/
def State.sendWrite (s : State) (r : WriteReply) : State :=
  match r with
  | .stored => s.retireWrite
  | .ignored => s.dropWrite
  | .noAnswer => s.blockBus

/-- Every pending store is written, oldest first (20_memory.md R121, R123 d). -/
def State.drain (s : State) : State := { s with mem := s.settledMemory, writeBuffer := [] }

/-- The depth of the write buffer (20_memory.md R120, 00_scope.md R7). -/
def writeBufferDepth : Nat := 4

/-- The posted writes that hold a slot of the write buffer: all but the one on the bus, whose slot is
freed when it starts (71_bus_interface.md R551). -/
def State.waitingStores (s : State) : List PendingStore :=
  if s.seq.busBlocked then s.writeBuffer.tail else s.writeBuffer

/-- The write buffer has no free slot: four stores wait (20_memory.md R120, 71_bus_interface.md R551). -/
def State.bufferFull (s : State) : Bool := decide (writeBufferDepth ≤ s.waitingStores.length)

/-- A store to a word is still pending (70_reset_and_hazards.md R514). A write on the bus that is never
acknowledged, whose slot R551 frees, counts as pending still, so that a fetch of its word from the bus is
refused and does not wait: 71_bus_interface.md R548 does not say (DESIGN CHOICE, log 36). -/
def State.storePending (s : State) (w : WordAddr) : Bool := s.writeBuffer.any (fun e => e.addr == w)

/-- A store enters the write buffer; when it is full the store waits until the oldest entry has left
(20_memory.md R120, 71_bus_interface.md R551; log 38). -/
def State.post (s : State) (e : PendingStore) : State :=
  if s.bufferFull then { s.retireWrite with writeBuffer := s.retireWrite.writeBuffer ++ [e] }
  else { s with writeBuffer := s.writeBuffer ++ [e] }

end Sys2Proof.Machine
end

