-- ==== Sys2Proof/Machine/Registers.lean ====
section
/-! DEFINITION. The registers as words: raw register files, the layouts of the CP0 and FPA control
registers, the Config fields in force, and the live interrupt lines (10_state.md). -/

namespace Sys2Proof.Machine

/-! ## Register files -/

/-- General register `r` as stored; r0 is zero (10_state.md R21). -/
def State.gprValue (s : State) (r : Reg) : Word :=
  if r = 0 then 0 else s.gpr[r.toNat]'r.isLt

/-- Write general register `r`; a write to r0 is discarded (10_state.md R21). -/
def State.writeReg (s : State) (r : Reg) (v : Word) : State :=
  if r = 0 then s else { s with gpr := s.gpr.set r.toNat v r.isLt }

/-- FPA general register `r` as stored (10_state.md R63). -/
def State.fgrValue (s : State) (r : Reg) : Word := s.fgr[r.toNat]'r.isLt

/-- Write FPA general register `r`. -/
def State.writeFgr (s : State) (r : Reg) (v : Word) : State :=
  { s with fgr := s.fgr.set r.toNat v r.isLt }

/-- TLB entry `i` (10_state.md R32). -/
def State.tlbEntry (s : State) (i : BitVec 6) : TlbEntry := s.tlb[i.toNat]'i.isLt

/-- Write TLB entry `i`. -/
def State.writeTlb (s : State) (i : BitVec 6) (e : TlbEntry) : State :=
  { s with tlb := s.tlb.set i.toNat e i.isLt }

/-! ## Free values -/

/-- The free word drawn at this instruction for a use (log 6). -/
def State.freeWord (s : State) (u : FreeUse) : Word := Config.freeWord u s.seq.draws

/-- The free choice drawn at this instruction for a use (log 6). -/
def State.freeBit (s : State) (u : FreeUse) : Bool := Config.freeBit u s.seq.draws

/-! ## Field updates -/

/-- Replace CP0. -/
def State.withCp0 (s : State) (c : Cp0) : State := { s with cp0 := c }

/-- Replace Status. -/
def State.withStatus (s : State) (v : StatusReg) : State :=
  { s with cp0 := { s.cp0 with status := v } }

/-- Replace Index. -/
def State.withIndex (s : State) (v : IndexReg) : State := { s with cp0 := { s.cp0 with index := v } }

/-- Replace EntryLo. -/
def State.withEntryLo (s : State) (v : EntryLo) : State :=
  { s with cp0 := { s.cp0 with entryLo := v } }

/-- Replace EntryHi. -/
def State.withEntryHi (s : State) (v : EntryHi) : State :=
  { s with cp0 := { s.cp0 with entryHi := v } }

/-- Replace Config. -/
def State.withConfig (s : State) (v : ConfigReg) : State :=
  { s with cp0 := { s.cp0 with config := v } }

/-- Replace Context. -/
def State.withContext (s : State) (v : ContextReg) : State :=
  { s with cp0 := { s.cp0 with context := v } }

/-- Replace Cause. -/
def State.withCause (s : State) (v : CauseReg) : State := { s with cp0 := { s.cp0 with cause := v } }

/-- Replace FCR31. -/
def State.withFcr31 (s : State) (v : Fcr31) : State := { s with fcr31 := v }

/-- Replace HI. -/
def State.withHi (s : State) (v : Word) : State := { s with hi := v }

/-- Replace LO. -/
def State.withLo (s : State) (v : Word) : State := { s with lo := v }

/-- Replace the sequencing state. -/
def State.withSeq (s : State) (q : Sequencing) : State := { s with seq := q }

/-! ## Layouts of CP0 registers (10_state.md section 2) -/

/-- Index as a word (10_state.md R29). -/
def indexWord (x : IndexReg) : Word := bit x.p ++ (0#17) ++ x.index ++ (0#8)

/-- Index from a word: P is bit 31, Index bits 13:8 (10_state.md R29, D25). -/
def indexOfWord (v : Word) : IndexReg := { p := v.getLsbD 31, index := v.extractLsb' 8 6 }

/-- Random as a word (10_state.md R33). -/
def randomWord (r : BitVec 6) : Word := (0#18) ++ r ++ (0#8)

/-- EntryLo as a word (10_state.md R30). -/
def entryLoWord (x : EntryLo) : Word := x.pfn ++ bit x.n ++ bit x.d ++ bit x.v ++ bit x.g ++ (0#8)

/-- EntryLo from a word (10_state.md R30). -/
def entryLoOfWord (v : Word) : EntryLo :=
  { pfn := v.extractLsb' 12 20, n := v.getLsbD 11, d := v.getLsbD 10, v := v.getLsbD 9,
    g := v.getLsbD 8 }

/-- EntryHi as a word (10_state.md R31). -/
def entryHiWord (x : EntryHi) : Word := x.vpn ++ x.pid ++ (0#6)

/-- EntryHi from a word (10_state.md R31). -/
def entryHiOfWord (v : Word) : EntryHi := { vpn := v.extractLsb' 12 20, pid := v.extractLsb' 6 6 }

/-- Config as a word; Rev is the chip's (10_state.md R53, R61). -/
def configWord (chip : Chip) (x : ConfigReg) : Word :=
  bit x.lock ++ bit x.slowBus ++ bit x.dbRefill ++ x.fpInt ++ bit x.halt ++ bit x.rf ++ bit x.ac ++
    bit chip.configRevA ++ (0#22)

/-- The writable fields of Config from a word (10_state.md R53). -/
def configOfWord (v : Word) : ConfigReg :=
  { lock := v.getLsbD 31, slowBus := v.getLsbD 30, dbRefill := v.getLsbD 29,
    fpInt := v.extractLsb' 26 3, halt := v.getLsbD 25, rf := v.getLsbD 24, ac := v.getLsbD 23 }

/-- Context as a word (10_state.md R35). -/
def contextWord (x : ContextReg) : Word := x.pteBase ++ x.badVpn ++ (0#2)

/-- Status as a word; reserved bits read 0 (10_state.md R37). -/
def statusWord (x : StatusReg) : Word :=
  x.cu ++ (0#2) ++ bit x.re ++ (0#2) ++ bit x.bev ++ bit x.ts ++ bit x.pe ++ bit x.cm ++ bit x.pz ++
    bit x.swc ++ bit x.isc ++ x.im ++ (0#2) ++ bit x.kuo ++ bit x.ieo ++ bit x.kup ++ bit x.iep ++
    bit x.kuc ++ bit x.iec

/-- What MTC0 makes of Status: every bit written, but TS kept and PE cleared by writing 1
(10_state.md R42, R49; 90_conflicts.md C1). -/
def statusOfWrite (old : StatusReg) (v : Word) : StatusReg :=
  { cu := v.extractLsb' 28 4, re := v.getLsbD 25, bev := v.getLsbD 22, ts := old.ts,
    pe := old.pe && !v.getLsbD 20, cm := v.getLsbD 19, pz := v.getLsbD 18, swc := v.getLsbD 17,
    isc := v.getLsbD 16, im := v.extractLsb' 8 8, kuo := v.getLsbD 5, ieo := v.getLsbD 4,
    kup := v.getLsbD 3, iep := v.getLsbD 2, kuc := v.getLsbD 1, iec := v.getLsbD 0 }

/-- Cause as a word, with the live interrupt lines in bits 15:10 (10_state.md R50). -/
def causeWord (x : CauseReg) (ip : BitVec 6) : Word :=
  bit x.bd ++ (0#1) ++ x.ce ++ (0#12) ++ ip ++ x.sw ++ (0#1) ++ x.excCode ++ (0#2)

/-- PRId (10_state.md R52). -/
def prIdWord : Word := 0x00000230

/-! ## Layouts of the FPA control registers (10_state.md section 3) -/

/-- FCR0 (10_state.md R62). -/
def fcr0Word (chip : Chip) : Word := (0#16) ++ (0x03#8) ++ chip.fcr0Rev

/-- FCR31 as a word; `free` supplies the reserved bits 31:24 and 22:18, undefined on a read
(10_state.md R64). -/
def fcr31Word (free : Word) (x : Fcr31) : Word :=
  free.extractLsb' 24 8 ++ bit x.c ++ free.extractLsb' 18 5 ++ x.exceptions ++ x.enables ++ x.sticky ++
    x.rm

/-- FCR31 from a word; reserved bits are dropped (46_fpa_instructions.md R349). -/
def fcr31OfWord (v : Word) : Fcr31 :=
  { c := v.getLsbD 23, exceptions := v.extractLsb' 12 6, enables := v.extractLsb' 7 5,
    sticky := v.extractLsb' 2 5, rm := v.extractLsb' 0 2 }

/-! ## Config fields in force (70_reset_and_hazards.md R511) -/

/-- The value of a Config field in force: the new one, or in the window a free choice between old and
new where they differ (70_reset_and_hazards.md R511; log 16). -/
def State.inForce {α : Type} [DecidableEq α] (s : State) (u : FreeUse) (field : ConfigReg → α) : α :=
  if s.seq.configWindow = 0 then field s.cp0.config
  else if field s.seq.configOld = field s.cp0.config then field s.cp0.config
  else if s.freeBit u then field s.cp0.config
  else field s.seq.configOld

/-- Config.Lock in force. -/
def State.lockInForce (s : State) : Bool := s.inForce .configLock (·.lock)
/-- Config.DBRefill in force. -/
def State.dbRefillInForce (s : State) : Bool := s.inForce .configDbRefill (·.dbRefill)
/-- Config.FPInt in force. -/
def State.fpIntInForce (s : State) : BitVec 3 := s.inForce .configFpInt (·.fpInt)
/-- Config.Halt in force. -/
def State.haltInForce (s : State) : Bool := s.inForce .configHalt (·.halt)
/-- Config.AC in force. -/
def State.acInForce (s : State) : Bool := s.inForce .configAc (·.ac)

/-- The Config fields in force together: what a further MTC0 leaves behind as the old value (log 16). -/
def State.configInForce (s : State) : ConfigReg :=
  { s.cp0.config with lock := s.lockInForce, dbRefill := s.dbRefillInForce, fpInt := s.fpIntInForce,
                      halt := s.haltInForce, ac := s.acInForce }

/-! ## Interrupt lines -/

/-- What FCR31 asks of the FPA interrupt line: E, or an exception whose trap is enabled
(60_exceptions.md R450). -/
def fpaInterrupt (x : Fcr31) : Bool :=
  x.exceptions.getLsbD 5 || x.exceptions.extractLsb' 0 5 &&& x.enables != 0

/-- The FPA interrupt line: asserted by FCR31, and held until a CTC1 or Reset lowers it
(60_exceptions.md R450, R455). -/
def State.fpaLine (s : State) : Bool := s.fpaHeld || fpaInterrupt s.fcr31

/-- The six hardware interrupt lines, Cause.IP: the pins, with the line Config.FPInt selects replaced by
the FPA's on parts that have one (60_exceptions.md R441, R450). -/
def State.interruptLines (s : State) : BitVec 6 :=
  if s.chip.hasFpa then
    let line : BitVec 6 := 1#6 <<< s.fpIntInForce.toNat
    if s.fpaLine then s.env.int ||| line else s.env.int &&& ~~~line
  else s.env.int

/-- Cause[15:8]: hardware lines above the two software bits (10_state.md R50). -/
def State.pendingInterrupts (s : State) : BitVec 8 := s.interruptLines ++ s.cp0.cause.sw

/-- The interrupt condition (60_exceptions.md R440). -/
def State.interruptCondition (s : State) : Bool :=
  s.cp0.status.iec && s.pendingInterrupts &&& s.cp0.status.im != 0

/-- Whether the FPA's own interrupt is enabled: IEc and the mask bit of the line FPInt selects
(60_exceptions.md R450). -/
def State.fpaInterruptEnabled (s : State) : Bool :=
  s.cp0.status.iec && s.cp0.status.im.getLsbD (2 + s.fpIntInForce.toNat)

/-! ## Modes and usability -/

/-- Coprocessor `z` is usable (60_exceptions.md R412). -/
def State.usable (s : State) (z : BitVec 2) : Bool :=
  s.cp0.status.cu.getLsbD z.toNat || (z == 0 && !s.cp0.status.kuc)

/-- The byte order of a data access, true for big-endian (20_memory.md R82). -/
def State.bigEndianData (s : State) : Bool :=
  s.mode.bigEndian != (s.cp0.status.re && s.cp0.status.kuc)

end Sys2Proof.Machine
end

