-- ==== Sys2Proof/Machine/Cache.lean ====
section
/-! DEFINITION. The two cache arrays: geometry, lookup, filling and invalidation (20_memory.md section 9). -/

namespace Sys2Proof.Machine

/-- A tag that is not valid. -/
def invalidTag : CacheTag := { valid := false, tag := 0, suspect := false }

/-- A data word never written (its value cannot be returned by a hit). -/
def emptyData : CacheData := { word := 0, suspect := false }

/-- The index of the tag of a word address: one tag per word in the data array, one per four words in
the instruction array; `ac` selects the organisation (20_memory.md R124). -/
def tagIndex (side : CacheSide) (ac : Bool) (w : WordAddr) : Nat :=
  match side with
  | .instr => if ac then (w.extractLsb' 2 9).toNat else (w.extractLsb' 2 10).toNat
  | .data => if ac then (w.extractLsb' 0 11).toNat else (w.extractLsb' 0 10).toNat

/-- The index of the data word of a word address (20_memory.md R124). -/
def dataIndex (side : CacheSide) (ac : Bool) (w : WordAddr) : Nat :=
  match side with
  | .instr => if ac then (w.extractLsb' 0 11).toNat else (w.extractLsb' 0 12).toNat
  | .data => if ac then (w.extractLsb' 0 11).toNat else (w.extractLsb' 0 10).toNat

/-- How many tags an array has (20_memory.md R124). -/
def tagCount (side : CacheSide) (ac : Bool) : Nat :=
  match side with
  | .instr => if ac then 512 else 1024
  | .data => if ac then 2048 else 1024

/-- The stored tag, TAG(31:12) (20_memory.md R124). -/
def tagOf (w : WordAddr) : BitVec 20 := w.extractLsb' 10 20

/-- The tag at an index, `none` while it is undefined after a change of Config.AC (20_memory.md R127). -/
def Cache.tagAt (c : Cache) (i : Nat) : Option CacheTag :=
  match Sparse.lookup c.tags i with
  | some t => some t
  | none => if c.tagsUndefined then none else some invalidTag

/-- The data word at an index; an undefined one is the free value drawn at `n` (R127). -/
def Cache.dataAt (c : Cache) (n i : Nat) : CacheData :=
  match Sparse.lookup c.data i with
  | some d => d
  | none => if c.dataUndefined then { word := Config.freeWord .cacheWord n, suspect := false }
            else emptyData

/-- Every tag of an array is listed: the array has been flushed after a change of Config.AC. -/
def allTagsListed (count : Nat) (tags : List (Nat × CacheTag)) : Bool :=
  (List.range count).all (fun i => (Sparse.lookup tags i).isSome)

/-- Write a tag. While tags are undefined each written one is listed; once all are, the list returns to
its canonical form (20_memory.md R127, 70_reset_and_hazards.md R510). -/
def Cache.setTag (side : CacheSide) (ac : Bool) (c : Cache) (i : Nat) (t : CacheTag) : Cache :=
  if c.tagsUndefined then
    let tags := Sparse.insert i t (Sparse.erase i c.tags)
    if allTagsListed (tagCount side ac) tags then
      { c with tags := tags.filter (fun e => decide (e.1 < tagCount side ac) && !(e.2 == invalidTag)),
               tagsUndefined := false }
    else { c with tags := tags }
  else { c with tags := Sparse.set invalidTag c.tags i t }

/-- Write a data word. -/
def Cache.setData (c : Cache) (i : Nat) (d : CacheData) : Cache :=
  if c.dataUndefined then { c with data := Sparse.insert i d c.data }
  else { c with data := Sparse.set emptyData c.data i d }

/-- What a cache lookup finds (20_memory.md R124, R132). -/
structure Lookup where
  hit : Bool
  word : Word
  parityError : Bool
deriving DecidableEq, Repr

/-- Look a word address up. An entry stored under Status.PZ may show bad parity: a free choice, and then
the access misses (20_memory.md R132, D39). An entry a change of Config.AC left undefined never shows bad
parity, whatever was stored in it before: R127 and D39 do not say (DESIGN CHOICE, log 52). -/
def Cache.lookup (side : CacheSide) (ac : Bool) (c : Cache) (w : WordAddr) (n : Nat)
    (parity : FreeUse) : Lookup :=
  let d := c.dataAt n (dataIndex side ac w)
  match c.tagAt (tagIndex side ac w) with
  | none => { hit := Config.freeBit .cacheHit n, word := d.word, parityError := false }
  | some t =>
    let bad := (t.suspect || d.suspect) && Config.freeBit parity n
    { hit := t.valid && t.tag == tagOf w && !bad, word := d.word, parityError := bad }

/-- Write a word, its tag and valid = 1; in the instruction array this re-tags the whole line
(20_memory.md R125, R129). -/
def Cache.fill (side : CacheSide) (ac : Bool) (c : Cache) (w : WordAddr) (v : Word) (suspect : Bool) :
    Cache :=
  (c.setTag side ac (tagIndex side ac w) { valid := true, tag := tagOf w, suspect := suspect }).setData
    (dataIndex side ac w) { word := v, suspect := suspect }

/-- Negate the valid bit of the entry (line) a word address selects (20_memory.md R128, R129; log 51).
The tag is marked as possibly bad in parity exactly when `suspect` says so; the mark of the data word
stays. So an isolated partial store with Status.PZ = 0 removes the mark a store under PZ left on the tag:
R128 says only that the valid bit is negated, and R132 does not say (DESIGN CHOICE, log 31). -/
def Cache.invalidate (side : CacheSide) (ac : Bool) (c : Cache) (w : WordAddr) (suspect : Bool) :
    Cache :=
  c.setTag side ac (tagIndex side ac w) { valid := false, tag := 0, suspect := suspect }

/-- The contents after a change of Config.AC: everything undefined (20_memory.md R127). -/
def undefinedCache : Cache := { tags := [], data := [], tagsUndefined := true, dataUndefined := true }

/-- The array serving data accesses (20_memory.md R129). -/
def State.dataSide (s : State) : CacheSide := if s.cp0.status.swc then .instr else .data

/-- The array serving instruction fetches (20_memory.md R129). -/
def State.fetchSide (s : State) : CacheSide := if s.cp0.status.swc then .data else .instr

/-- An array. -/
def State.cache (s : State) (side : CacheSide) : Cache :=
  match side with
  | .instr => s.icache
  | .data => s.dcache

/-- Replace an array. -/
def State.withCache (s : State) (side : CacheSide) (c : Cache) : State :=
  match side with
  | .instr => { s with icache := c }
  | .data => { s with dcache := c }

/-- Write a word into an array with tag and valid (20_memory.md R125). -/
def State.fillWord (s : State) (side : CacheSide) (w : WordAddr) (v : Word) (suspect : Bool) : State :=
  s.withCache side ((s.cache side).fill side s.acInForce w v suspect)

/-- Invalidate an entry of an array (20_memory.md R128). -/
def State.invalidateWord (s : State) (side : CacheSide) (w : WordAddr) (suspect : Bool) : State :=
  s.withCache side ((s.cache side).invalidate side s.acInForce w suspect)

/-- Look a data access up in the array that serves it. -/
def State.dataLookup (s : State) (w : WordAddr) : Lookup :=
  (s.cache s.dataSide).lookup s.dataSide s.acInForce w s.seq.draws .dataParity

/-- Look an instruction fetch up in the array that serves it. -/
def State.fetchLookup (s : State) (w : WordAddr) : Lookup :=
  (s.cache s.fetchSide).lookup s.fetchSide s.acInForce w s.seq.draws .fetchParity

/-- A parity error found on a lookup sets Status.PE (10_state.md R42, 20_memory.md R132). -/
def State.recordParity (s : State) (l : Lookup) : State :=
  s.withStatus { s.cp0.status with pe := s.cp0.status.pe || l.parityError }

/-- Config.AC was changed and not every line of both caches has been flushed since
(20_memory.md R127, 70_reset_and_hazards.md R510). -/
def State.awaitingFlush (s : State) : Bool := s.icache.tagsUndefined || s.dcache.tagsUndefined

/-- Word `k` of the aligned 16-byte block of a word address (20_memory.md R126). -/
def blockWord (w : WordAddr) (k : BitVec 2) : WordAddr := w.extractLsb' 2 28 ++ k

/-- The four words of the aligned block of a word address, in ascending order (20_memory.md R126). -/
def blockWords (w : WordAddr) : List WordAddr :=
  [blockWord w 0, blockWord w 1, blockWord w 2, blockWord w 3]

end Sys2Proof.Machine
end

