-- ==== Sys2Proof/Machine/Ops.lean ====
section
/-! DEFINITION. The operations every instruction is built from: advancing, exception entry and return,
address translation, data access and instruction fetch. -/

namespace Sys2Proof.Machine

/-- What an instruction answers. -/
abbrev Result := Host.Outcome State Fault Refusal

/-! ## Sequencing (42_jump_branch.md R240) -/

/-- A pending load reaches its general register (40_load_store.md R171). -/
def State.deliverLoad (s : State) : State :=
  match s.seq.loadPending with
  | some (r, v) => s.writeReg r v
  | none => s

/-- A pending LWC1 or MTC1 reaches its FGR (46_fpa_instructions.md R367 a). -/
def State.deliverFpLoad (s : State) : State :=
  match s.seq.fpLoadPending with
  | some (r, v) => s.writeFgr r v
  | none => s

/-- The pending results of the previous instruction reach their registers (40_load_store.md R171,
46_fpa_instructions.md R367, 60_exceptions.md R420 step 1). -/
def State.commitLoads (s : State) : State :=
  s.deliverLoad.deliverFpLoad.withSeq { s.seq with loadPending := none, fpLoadPending := none }

/-- A value Random may have: 8 to 63 (10_state.md R33; log 19). -/
def randomDraw (n : Nat) : BitVec 6 :=
  BitVec.ofNat 6 (8 + (Config.freeWord .random n).toNat % 56)

/-- The next instruction draws anew, and sees the condition inputs sampled in this step
(43_special_coprocessor.md R270, 10_state.md R33). After a step in which no instruction ran, an interrupt
or the exception of a fetch, that is the model's choice (log 55). The windows of R506, R507 and R509 close;
where an exception is taken R500 says so of the first two, and of R509 it is the model's choice (log 56). -/
def State.turnOver (s : State) : State :=
  { s with
    cp0 := { s.cp0 with random := randomDraw s.seq.draws }
    seq := { s.seq with
      condLatch0 := s.env.brCond0, condLatch2 := s.env.brCond2, condLatch3 := s.env.brCond3,
      condPending := none, cp0WriteWindow := false, cacheCtlWindow := false,
      draws := s.seq.draws + 1 } }

/-- The instruction completes: pending loads are delivered, the pc moves on, a taken jump or branch
sets the address after the delay slot, one instruction of the Config window passes
(42_jump_branch.md R240, 70_reset_and_hazards.md R511). -/
def State.advance (s : State) (isBranch : Bool) (target : Option Word) : State :=
  { s.commitLoads.turnOver with
    pc := s.nextPc
    nextPc := match target with
      | some a => a
      | none => s.nextPc + 4
    seq := { s.commitLoads.turnOver.seq with inDelaySlot := isBranch, configWindow := s.seq.configWindow - 1 } }

/-- An instruction that is no jump or branch completes. -/
def State.retire (s : State) : State := s.advance false none

/-- The result of a load, MFC0, MFC1 or CFC1: delivered when the next instruction completes; none for
r0 (40_load_store.md R171, R185, 70_reset_and_hazards.md R503, R504). -/
def State.deferLoad (s : State) (r : Reg) (v : Word) : State :=
  if r = 0 then s else s.withSeq { s.seq with loadPending := some (r, v) }

/-- The result of LWC1 or MTC1: delivered when the next instruction completes
(46_fpa_instructions.md R367 a). -/
def State.deferFpLoad (s : State) (r : Reg) (v : Word) : State :=
  s.withSeq { s.seq with fpLoadPending := some (r, v) }

/-! ## Exceptions (60_exceptions.md) -/

/-- The exceptions that go through exception entry (60_exceptions.md R401), with what each records;
`refill` is true when no TLB entry matched a kuseg address (R405). -/
inductive Exc where
  | int
  | mod (va : Word)
  | tlbl (va : Word) (refill : Bool)
  | tlbs (va : Word) (refill : Bool)
  | adel (va : Word)
  | ades (va : Word)
  | ibe
  | dbe
  | sys
  | bp
  | ri
  | cpu (z : BitVec 2)
  | ovf
deriving DecidableEq, Repr

/-- Cause.ExcCode (60_exceptions.md R401). -/
def Exc.code : Exc → BitVec 5
  | .int => 0
  | .mod _ => 1
  | .tlbl _ _ => 2
  | .tlbs _ _ => 3
  | .adel _ => 4
  | .ades _ => 5
  | .ibe => 6
  | .dbe => 7
  | .sys => 8
  | .bp => 9
  | .ri => 10
  | .cpu _ => 11
  | .ovf => 12

/-- Whether the UTLB Miss vector is used (60_exceptions.md R403, R405). -/
def Exc.isRefill : Exc → Bool
  | .tlbl _ r => r
  | .tlbs _ r => r
  | _ => false

/-- The exception vector (60_exceptions.md R403). -/
def exceptionVector (x : Exc) (bev : Bool) : Word :=
  match bev, x.isRefill with
  | false, false => 0x80000080
  | false, true => 0x80000000
  | true, false => 0xbfc00180
  | true, true => 0xbfc00100

/-- The KU/IE push: Kernel mode, interrupts disabled (60_exceptions.md R421). -/
def StatusReg.push (x : StatusReg) : StatusReg :=
  { x with kuo := x.kup, ieo := x.iep, kup := x.kuc, iep := x.iec, kuc := false, iec := false }

/-- The KU/IE pop (44_cp0_instructions.md R297). -/
def StatusReg.pop (x : StatusReg) : StatusReg :=
  { x with kuc := x.kup, iec := x.iep, kup := x.kuo, iep := x.ieo }

/-- BadVAddr after an exception (60_exceptions.md R424, R425). -/
def Exc.badVAddr (x : Exc) (old : Word) : Word :=
  match x with
  | .mod va | .tlbl va _ | .tlbs va _ | .adel va | .ades va => va
  | _ => old

/-- Context after an exception: BadVPN is VA[30:12] after a TLB exception, a free value after an address
error (60_exceptions.md R424, R425; 10_state.md R35). -/
def Exc.context (x : Exc) (n : Nat) (old : ContextReg) : ContextReg :=
  match x with
  | .mod va | .tlbl va _ | .tlbs va _ => { old with badVpn := va.extractLsb' 12 19 }
  | .adel _ | .ades _ =>
    { old with badVpn := (Config.freeWord .contextBadVpn n).extractLsb' 0 19 }
  | _ => old

/-- EntryHi after an exception: VPN is VA[31:12] after a TLB exception, a free value after an address
error; there is no EntryHi on base versions (60_exceptions.md R424, R425). -/
def Exc.entryHi (x : Exc) (hasTlb : Bool) (n : Nat) (old : EntryHi) : EntryHi :=
  match x with
  | .mod va | .tlbl va _ | .tlbs va _ => { old with vpn := va.extractLsb' 12 20 }
  | .adel _ | .ades _ =>
    if hasTlb then { old with vpn := (Config.freeWord .entryHiVpn n).extractLsb' 0 20 } else old
  | _ => old

/-- Cause after an exception: BD, ExcCode, and CE, which only CpU defines (60_exceptions.md R412, R420;
10_state.md R50). -/
def Exc.cause (x : Exc) (inDelaySlot : Bool) (n : Nat) (old : CauseReg) : CauseReg :=
  { old with
    bd := inDelaySlot
    excCode := x.code
    ce := match x with
      | .cpu z => z
      | _ => (Config.freeWord .causeCe n).extractLsb' 0 2 }

/-- TAKING AN EXCEPTION, every one but Reset (60_exceptions.md R420): pending loads are delivered; EPC
and BD name the instruction or the branch before it; the cause and the failing address are recorded;
KU/IE are pushed; execution goes to the vector, in no delay slot. A BC0x, BC2x or BC3x that is the first
instruction of the handler tests the condition inputs sampled in this step. R270 says so where this step
ran an instruction; after an interrupt or the exception of a fetch none ran, and R270 is silent: DESIGN
CHOICE, unsafe (log 55). -/
def State.takeException (s : State) (x : Exc) : State :=
  { s.commitLoads.turnOver with
    pc := exceptionVector x s.cp0.status.bev
    nextPc := exceptionVector x s.cp0.status.bev + 4
    cp0 := { s.commitLoads.turnOver.cp0 with
      epc := if s.seq.inDelaySlot then s.pc - 4 else s.pc
      cause := x.cause s.seq.inDelaySlot s.seq.draws s.cp0.cause
      badVAddr := x.badVAddr s.cp0.badVAddr
      context := x.context s.seq.draws s.cp0.context
      entryHi := x.entryHi s.chip.hasTlb s.seq.draws s.cp0.entryHi
      status := s.cp0.status.push }
    seq := { s.commitLoads.turnOver.seq with inDelaySlot := false } }

/-- RETURN FROM EXCEPTION: RFE pops the KU/IE stack and changes nothing else (44_cp0_instructions.md
R297, 60_exceptions.md R460). -/
def State.returnFromException (s : State) : State := s.withStatus s.cp0.status.pop

/-- The instruction takes an exception. -/
def State.raise (s : State) (x : Exc) : Result := .next (s.takeException x)

/-! ## Outcomes of an access -/

/-- What an access answers: a value, an exception, a bus transaction that never ends, or a refusal. The
state carries what the access already did (a drained write buffer, a refilled line). -/
inductive Access (α : Type) where
  | ok (a : α) (s : State)
  | exc (x : Exc) (s : State)
  | never (s : State)
  | refused (r : Refusal)
deriving Repr

/-- Go on with the value of an access. -/
def Access.bind {α β : Type} (m : Access α) (k : α → State → Access β) : Access β :=
  match m with
  | .ok a s => k a s
  | .exc x s => .exc x s
  | .never s => .never s
  | .refused r => .refused r

/-- The core makes no progress in this step (70_reset_and_hazards.md R485 for Tri-State,
60_exceptions.md R472 for Halt, 71_bus_interface.md R545 for the bus). -/
def State.stall (s : State) : State := s.withSeq { s.seq with draws := s.seq.draws + 1 }

/-- The core starts to wait for a bus transaction that never ends (71_bus_interface.md R545, R548). -/
def State.waitForBus (s : State) : State :=
  let t := s.stall
  t.withSeq { t.seq with waiting := true }

/-- Finish an instruction with the value of an access; an exception is taken, and in an access that
never ends the instruction does not complete (71_bus_interface.md R545). -/
def Access.finish {α : Type} (m : Access α) (k : α → State → Result) : Result :=
  match m with
  | .ok a s => k a s
  | .exc x s => s.raise x
  | .never s => .next s.waitForBus
  | .refused r => .refused r

/-! ## Translation (20_memory.md sections 5 and 6) -/

/-- What an access is for (20_memory.md R111). -/
inductive AccessKind where
  | fetch
  | load
  | store
deriving DecidableEq, Repr

/-- An address error of this kind (20_memory.md R96, R97, R99). -/
def AccessKind.addressError (k : AccessKind) (va : Word) : Exc :=
  match k with
  | .fetch => .adel va
  | .load => .adel va
  | .store => .ades va

/-- A TLB miss or invalid entry of this kind (20_memory.md R110, R111). -/
def AccessKind.tlbMiss (k : AccessKind) (va : Word) (refill : Bool) : Exc :=
  match k with
  | .fetch => .tlbl va refill
  | .load => .tlbl va refill
  | .store => .tlbs va refill

/-- Whether a TLB entry maps a page of a process (20_memory.md R108). -/
def TlbEntry.maps (e : TlbEntry) (vpn : BitVec 20) (pid : BitVec 6) : Bool :=
  e.hi.vpn == vpn && (e.lo.g || e.hi.pid == pid)

/-- The TLB entries that map a page (20_memory.md R108). -/
def State.tlbMatches (s : State) (vpn : BitVec 20) : List (BitVec 6) :=
  ((List.range 64).map (BitVec.ofNat 6)).filter
    (fun i => (s.tlbEntry i).maps vpn s.cp0.entryHi.pid)

/-- The physical address an entry gives, or the exception it raises (20_memory.md R110). -/
def State.useTlbEntry (s : State) (e : TlbEntry) (va : Word) (kind : AccessKind) :
    Access (Word × Bool) :=
  if !e.lo.v then .exc (kind.tlbMiss va false) s
  else if kind = .store && !e.lo.d then .exc (.mod va) s
  else .ok (e.lo.pfn ++ va.extractLsb' 0 12, !e.lo.n) s

/-- Translation of a mapped address (20_memory.md R107 to R112). Two matches shut the TLB down: TS is
set and this reference's translation is undefined, a free value (log 20). -/
def State.translateMapped (s : State) (va : Word) (kind : AccessKind) : Access (Word × Bool) :=
  if s.cp0.status.ts then .refused .tlbShutdown
  else match s.tlbMatches (va.extractLsb' 12 20) with
    | [] => .exc (kind.tlbMiss va (!va.getLsbD 31)) s
    | [i] => s.useTlbEntry (s.tlbEntry i) va kind
    | _ => .ok (s.freeWord .shutdownAddress, s.freeBit .shutdownCacheable)
             (s.withStatus { s.cp0.status with ts := true })

/-- `Translate`: physical address and cacheability (20_memory.md R100 to R105, R111). -/
def State.translate (s : State) (va : Word) (kind : AccessKind) : Access (Word × Bool) :=
  if va.extractLsb' 29 3 = 4 then .ok (va &&& 0x1fffffff, true) s
  else if va.extractLsb' 29 3 = 5 then .ok (va &&& 0x1fffffff, false) s
  else if s.chip.hasTlb then s.translateMapped va kind
  else if va.getLsbD 31 then .ok (va, true) s
  else .ok (va + 0x40000000, true) s

/-- Steps (1) to (3) of an access: alignment, the User-mode check, translation
(20_memory.md R96, R97, R98, R101). -/
def State.address (s : State) (va : Word) (kind : AccessKind) (aligned : Bool) :
    Access (Word × Bool) :=
  if !aligned then .exc (kind.addressError va) s
  else if s.cp0.status.kuc && va.getLsbD 31 then .exc (kind.addressError va) s
  else s.translate va kind

/-- `PA[31:2]` (20_memory.md R82). -/
def wordAddress (pa : Word) : WordAddr := pa.extractLsb' 2 30

/-! ## Bus reads (71_bus_interface.md section 2) -/

/-- The word a bus read returns: memory's, or the device's word of the aligned block (R540). -/
def State.busWord (s : State) (reply : BusReply) (w : WordAddr) : Word :=
  match reply with
  | .device w0 w1 w2 w3 =>
    match (w.extractLsb' 0 2).toNat with
    | 0 => w0
    | 1 => w1
    | 2 => w2
    | _ => w3
  | .memory => Memory.readWord s.mem w
  | .busError => Memory.readWord s.mem w
  | .noAnswer => Memory.readWord s.mem w

/-- The words of a read arrive in the read buffer (10_state.md R73). -/
def State.receive (s : State) (side : CacheSide) (reply : BusReply) (ws : List WordAddr) : State :=
  { s with readBuffer := ws.map fun w => { side := side, addr := w, word := s.busWord reply w } }

/-- The words in the read buffer go into the cache (10_state.md R73). -/
def State.drainReadBuffer (s : State) : State :=
  s.readBuffer.foldl (fun t e => t.fillWord e.side e.addr e.word false) { s with readBuffer := [] }

/-- Fill words of an array from the bus, through the read buffer (20_memory.md R126, 10_state.md R73). -/
def State.refill (s : State) (side : CacheSide) (reply : BusReply) (ws : List WordAddr) : State :=
  (s.receive side reply ws).drainReadBuffer

/-- After a refill that ended in a bus error the entries stay or become invalid: a free choice
(71_bus_interface.md R546, D43; log 35). The tag of an entry made invalid here loses the mark of a
store under Status.PZ: 20_memory.md R132 does not say (DESIGN CHOICE, log 35). -/
def State.refillFailed (s : State) (side : CacheSide) (u : FreeUse) (ws : List WordAddr) : State :=
  if s.freeBit u then ws.foldl (fun t w => t.invalidateWord side w false) s else s

/-- The words a data-cache miss reads: one, or the block with Config.DBRefill (20_memory.md R126). -/
def State.dataRefillWords (s : State) (w : WordAddr) : List WordAddr :=
  if s.dbRefillInForce then blockWords w else [w]

/-- A data read on the bus that fills no cache; every earlier store is written first
(20_memory.md R121, R125). -/
def State.readUncached (s : State) (w : WordAddr) : Access Word :=
  if s.seq.busBlocked then .never s
  else match s.env.dataReply with
  | .noAnswer => .never s.drain
  | .busError => .exc .dbe s.drain
  | .memory => .ok (s.drain.busWord .memory w) s.drain
  | .device w0 w1 w2 w3 => .ok (s.drain.busWord (.device w0 w1 w2 w3) w) s.drain

/-- A data-cache miss: earlier stores are written, then the entry or block is read and filled
(20_memory.md R121, R125, R126). -/
def State.readMiss (s : State) (w : WordAddr) : Access Word :=
  if s.seq.busBlocked then .never s
  else match s.env.dataReply with
  | .noAnswer => .never s.drain
  | .busError => .exc .dbe (s.drain.refillFailed s.dataSide .dataErrorLine (s.dataRefillWords w))
  | .memory =>
    .ok (s.drain.busWord .memory w) (s.drain.refill s.dataSide .memory (s.dataRefillWords w))
  | .device w0 w1 w2 w3 =>
    .ok (s.drain.busWord (.device w0 w1 w2 w3) w)
      (s.drain.refill s.dataSide (.device w0 w1 w2 w3) (s.dataRefillWords w))

/-! ## Data access (20_memory.md R96, R97, R125, R128) -/

/-- An isolated load: the indexed word whatever its tag; Status.CM tells whether it missed
(20_memory.md R128, R131). -/
def State.loadIsolated (s : State) (w : WordAddr) : Access Word :=
  let l := s.dataLookup w
  let t := s.recordParity l
  .ok l.word (t.withStatus { t.cp0.status with cm := !l.hit })

/-- A cacheable load in normal operation (20_memory.md R125). -/
def State.loadCached (s : State) (w : WordAddr) : Access Word :=
  let l := s.dataLookup w
  if l.hit then .ok l.word s else (s.recordParity l).readMiss w

/-- Step (4) of a load: the word at a physical word address (20_memory.md R96, R125, R128). -/
def State.loadWord (s : State) (w : WordAddr) (cacheable : Bool) : Access Word :=
  match cacheable, s.cp0.status.isc with
  | true, true => s.loadIsolated w
  | true, false => if s.awaitingFlush then .refused .cacheNotFlushed else s.loadCached w
  | false, true => .refused .isolatedUncached
  | false, false => s.readUncached w

/-- All four byte lanes (20_memory.md R86). -/
def allLanes : Lanes := 0xf

/-- The word with the enabled lanes replaced (20_memory.md R125). -/
def mergeLanes (lanes : Lanes) (old new : Word) : Word :=
  (if lanes.getLsbD 3 then new.extractLsb' 24 8 else old.extractLsb' 24 8) ++
  (if lanes.getLsbD 2 then new.extractLsb' 16 8 else old.extractLsb' 16 8) ++
  (if lanes.getLsbD 1 then new.extractLsb' 8 8 else old.extractLsb' 8 8) ++
  (if lanes.getLsbD 0 then new.extractLsb' 0 8 else old.extractLsb' 0 8)

/-- An isolated store: a word store writes data, tag and valid, a partial one invalidates; nothing
reaches memory (20_memory.md R128). The parity of the tag is rewritten by either, that of the data word by
a word store only; for a partial store R128 and R132 do not say (DESIGN CHOICE, log 31). -/
def State.storeIsolated (s : State) (w : WordAddr) (lanes : Lanes) (v : Word) : State :=
  if lanes = allLanes then s.fillWord s.dataSide w v s.cp0.status.pz
  else s.invalidateWord s.dataSide w s.cp0.status.pz

/-- What a store in normal operation posts: a partial store that hits posts the whole merged word
(20_memory.md R125, 71_bus_interface.md R547). -/
def State.postedStore (s : State) (w : WordAddr) (cacheable : Bool) (lanes : Lanes) (v : Word) :
    PendingStore :=
  let l := s.dataLookup w
  if cacheable && lanes != allLanes && l.hit then
    { addr := w, lanes := allLanes, data := mergeLanes lanes l.word v }
  else { addr := w, lanes := lanes, data := v }

/-- What a cacheable store in normal operation does to the data cache: a word store fills the entry, a
partial store updates it on a hit and leaves it on a miss (20_memory.md R125). -/
def State.storeCache (s : State) (w : WordAddr) (lanes : Lanes) (v : Word) : State :=
  let l := s.dataLookup w
  if lanes = allLanes then s.fillWord s.dataSide w v s.cp0.status.pz
  else if l.hit then s.fillWord s.dataSide w (mergeLanes lanes l.word v) s.cp0.status.pz
  else s.recordParity l

/-- A store goes to the write buffer. With four stores waiting behind a write that is never acknowledged
the core waits (20_memory.md R120, 71_bus_interface.md R548, R551). -/
def State.postStore (s : State) (e : PendingStore) : Access Unit :=
  if s.seq.busBlocked && s.bufferFull then .never s else .ok () (s.post e)

/-- Step (4) of a store (20_memory.md R97, R125, R128); it never ends in a bus error (R123 e). -/
def State.storeWord (s : State) (w : WordAddr) (cacheable : Bool) (lanes : Lanes) (v : Word) :
    Access Unit :=
  match cacheable, s.cp0.status.isc with
  | true, true => .ok () (s.storeIsolated w lanes v)
  | true, false =>
    if s.awaitingFlush then .refused .cacheNotFlushed
    else (s.storeCache w lanes v).postStore (s.postedStore w true lanes v)
  | false, true => .refused .isolatedUncached
  | false, false => s.postStore (s.postedStore w false lanes v)

/-- The widths of an access (20_memory.md R85). -/
inductive Width where
  | byte
  | half
  | word
deriving DecidableEq, Repr

/-- Alignment (20_memory.md R84). -/
def Width.aligned (n : Width) (va : Word) : Bool :=
  match n with
  | .byte => true
  | .half => !va.getLsbD 0
  | .word => va.extractLsb' 0 2 == 0

/-- The lowest lane of an aligned access (20_memory.md R86). -/
def Width.lowLane (n : Width) (bigEndian : Bool) (va : Word) : Nat :=
  let a := (va.extractLsb' 0 2).toNat
  match n with
  | .byte => if bigEndian then 3 - a else a
  | .half => if bigEndian then 2 - a else a
  | .word => 0

/-- The lanes of an aligned access (20_memory.md R86, Table 2.3). -/
def Width.lanes (n : Width) (bigEndian : Bool) (va : Word) : Lanes :=
  match n with
  | .byte => 1#4 <<< n.lowLane bigEndian va
  | .half => 3#4 <<< n.lowLane bigEndian va
  | .word => allLanes

/-- The low byte, halfword or the whole of a word, zero-extended. -/
def Width.low (n : Width) (v : Word) : Word :=
  match n with
  | .byte => v &&& 0xff
  | .half => v &&& 0xffff
  | .word => v

/-- `MemRead(vaddr, n)`: the datum as an unsigned number (20_memory.md R96). -/
def State.memRead (s : State) (va : Word) (n : Width) : Access Word :=
  (s.address va .load (n.aligned va)).bind fun p t =>
    (t.loadWord (wordAddress p.1) p.2).bind fun w u =>
      .ok (n.low (w >>> (8 * n.lowLane s.bigEndianData va))) u

/-- `MemReadLanes(vaddr, _)`: the whole word, with no alignment check (20_memory.md R96). -/
def State.memReadLanes (s : State) (va : Word) : Access Word :=
  (s.address va .load true).bind fun p t => t.loadWord (wordAddress p.1) p.2

/-- `MemWrite(vaddr, n, v)` (20_memory.md R97). -/
def State.memWrite (s : State) (va : Word) (n : Width) (v : Word) : Access Unit :=
  (s.address va .store (n.aligned va)).bind fun p t =>
    t.storeWord (wordAddress p.1) p.2 (n.lanes s.bigEndianData va)
      (v <<< (8 * n.lowLane s.bigEndianData va))

/-- `MemWriteLanes(vaddr, lanes, w)` (20_memory.md R97). -/
def State.memWriteLanes (s : State) (va : Word) (lanes : Lanes) (v : Word) : Access Unit :=
  (s.address va .store true).bind fun p t => t.storeWord (wordAddress p.1) p.2 lanes v

/-! ## Instruction fetch (20_memory.md R99) -/

/-- Note how this instruction is fetched, for the rule on IsC and SwC (70_reset_and_hazards.md R509).
Exception entry keeps the note, so that the instruction fetched last, an aborted one too, counts as the
one before the handler's first: R509 does not say (DESIGN CHOICE, log 56). -/
def State.noteFetch (s : State) (cacheable : Bool) : State :=
  s.withSeq { s.seq with prevFetchCached := s.seq.fetchCached, fetchCached := cacheable }

/-- An uncached fetch: every earlier store is written first (20_memory.md R122, R123 d). A fetch of a
word with a store still pending is refused (70_reset_and_hazards.md R514, D42; log 36). -/
def State.fetchUncached (s : State) (w : WordAddr) : Access Word :=
  if s.storePending w then .refused .fetchPendingStore
  else if s.seq.busBlocked then .never s
  else match s.env.fetchReply with
  | .noAnswer => .never s.drain
  | .busError => .exc .ibe s.drain
  | .memory => .ok (s.drain.busWord .memory w) s.drain
  | .device w0 w1 w2 w3 => .ok (s.drain.busWord (.device w0 w1 w2 w3) w) s.drain

/-- An instruction-cache miss: the aligned block is read, before pending stores are written
(20_memory.md R122, R126). A fetch of a word with a store still pending is refused
(70_reset_and_hazards.md R514, D42; log 36). -/
def State.fetchMiss (s : State) (w : WordAddr) : Access Word :=
  if s.storePending w then .refused .fetchPendingStore
  else if s.seq.busBlocked then .never s
  else match s.env.fetchReply with
  | .noAnswer => .never s
  | .busError => .exc .ibe (s.refillFailed s.fetchSide .fetchErrorLine (blockWords w))
  | .memory => .ok (s.busWord .memory w) (s.refill s.fetchSide .memory (blockWords w))
  | .device w0 w1 w2 w3 =>
    .ok (s.busWord (.device w0 w1 w2 w3) w)
      (s.refill s.fetchSide (.device w0 w1 w2 w3) (blockWords w))

/-- A cacheable fetch (20_memory.md R125); IsC does not affect it (R128). -/
def State.fetchCached (s : State) (w : WordAddr) : Access Word :=
  let l := s.fetchLookup w
  if l.hit then .ok l.word s else (s.recordParity l).fetchMiss w

/-- Step (4) of a fetch. -/
def State.fetchAt (s : State) (w : WordAddr) (cacheable : Bool) : Access Word :=
  if cacheable then
    if s.seq.cacheCtlWindow then .refused .cacheControlCached
    else if s.awaitingFlush then .refused .cacheNotFlushed
    else s.fetchCached w
  else s.fetchUncached w

/-- `Fetch(pc)` (20_memory.md R99). -/
def State.fetchWord (s : State) : Access Word :=
  (s.address s.pc .fetch (s.pc.extractLsb' 0 2 == 0)).bind fun p t =>
    (t.noteFetch p.2).fetchAt (wordAddress p.1) p.2

end Sys2Proof.Machine
end

