-- ==== Sys2Proof/Machine/Operands.lean ====
section
/-! DEFINITION. Operand forms: register operands with their delays, immediates, addresses, branch and jump
targets, partial-word merges, FPA operands and coprocessor conditions. -/

namespace Sys2Proof.Machine

/-! ## Register operands -/

/-- A general register read as a source operand. In the delay slot of the load that writes it the value
is the old or the new one, a free choice (40_load_store.md R171, D5; log 7). -/
def State.readReg (s : State) (r : Reg) : Word :=
  match s.seq.loadPending with
  | some (p, v) =>
    if p = r && r != 0 then (if s.freeBit .loadDelay then v else s.gprValue r) else s.gprValue r
  | none => s.gprValue r

/-- The register LWL and LWR merge into: a load just before delivers its value first
(40_load_store.md R171). -/
def State.readMerged (s : State) (r : Reg) : Word :=
  match s.seq.loadPending with
  | some (p, v) => if p = r && r != 0 then v else s.gprValue r
  | none => s.gprValue r

/-- An FPA general register read as a source; right after LWC1 or MTC1 to it, the old or the new value
(46_fpa_instructions.md R367 a, D5; log 8). -/
def State.readFgr (s : State) (r : Reg) : Word :=
  match s.seq.fpLoadPending with
  | some (p, v) => if p = r then (if s.freeBit .fpLoadDelay then v else s.fgrValue r) else s.fgrValue r
  | none => s.fgrValue r

/-! ## Immediates (30_encoding.md R144) -/

/-- `sext_16`. -/
def sext16 (v : BitVec 16) : Word := v.signExtend 32

/-- `zext_16`. -/
def zext16 (v : BitVec 16) : Word := v.zeroExtend 32

/-- The address of a load or store: base plus sign-extended offset, modulo 2^32
(40_load_store.md R170). -/
def State.effectiveAddress (s : State) (base : Reg) (offset : BitVec 16) : Word :=
  s.readReg base + sext16 offset

/-- The target of a branch at `pc` (30_encoding.md R145). -/
def branchTarget (pc : Word) (offset : BitVec 16) : Word :=
  pc + 4 + (offset ++ (0#2)).signExtend 32

/-- The target of J and JAL at `pc`: the region is the delay slot's (30_encoding.md R146, D9). -/
def jumpTarget (pc : Word) (target : BitVec 26) : Word :=
  (pc + 4).extractLsb' 28 4 ++ target ++ (0#2)

/-- The value a link register receives: the address after the delay slot (42_jump_branch.md R255). -/
def linkAddress (pc : Word) : Word := pc + 8

/-- A shift count from a register: its low five bits (30_encoding.md R147). -/
def shiftCount (v : Word) : Nat := (v.extractLsb' 0 5).toNat

/-- Shift left logical (41_computational.md R211). -/
def shiftLeft (v : Word) (n : Nat) : Word := v <<< n

/-- Shift right logical (41_computational.md R212). -/
def shiftRight (v : Word) (n : Nat) : Word := v >>> n

/-- Shift right arithmetic (41_computational.md R213). -/
def shiftRightArith (v : Word) (n : Nat) : Word := v.sshiftRight n

/-! ## Partial words (40_load_store.md R177, R178, R183, R184) -/

/-- `L`, the lane of the addressed byte (40_load_store.md R177). -/
def byteLane (bigEndian : Bool) (va : Word) : Nat :=
  if bigEndian then 3 - (va.extractLsb' 0 2).toNat else (va.extractLsb' 0 2).toNat

/-- The lanes `L, .., 0` of LWL and SWL (20_memory.md R87). -/
def lanesDown (lane : Nat) : Lanes := allLanes >>> (3 - lane)

/-- The lanes `3, .., L` of LWR and SWR (20_memory.md R87). -/
def lanesUp (lane : Nat) : Lanes := allLanes <<< lane

/-- LWL: memory bytes `L .. 0` become the high bytes, the low bytes of `old` stay (R177). -/
def mergeLeft (lane : Nat) (old w : Word) : Word :=
  (w <<< (8 * (3 - lane))) ||| (old &&& (0xffffffff#32 >>> (8 * (lane + 1))))

/-- LWR: memory bytes `3 .. L` become the low bytes, the high bytes of `old` stay (R178). -/
def mergeRight (lane : Nat) (old w : Word) : Word :=
  (w >>> (8 * lane)) ||| (old &&& ~~~(0xffffffff#32 >>> (8 * lane)))

/-! ## FPA operands (45_fpa_formats.md R310) -/

/-- A single or fixed-point operand: the low word only. -/
def State.readSingle (s : State) (r : Reg) : Raw := (s.readFgr r).zeroExtend 64

/-- A double operand: FGR[n+1] above FGR[n]. -/
def State.readDouble (s : State) (r : Reg) : Raw := s.readFgr (r + 1) ++ s.readFgr r

/-- A single or fixed-point result: FGR[fd] is written and FGR[fd+1] becomes undefined
(46_fpa_instructions.md R344; log 29). -/
def State.writeSingle (s : State) (n : Nat) (r : Reg) (v : Word) : State :=
  (s.writeFgr r v).writeFgr (r + 1) (Config.freeWord .fgrOdd n)

/-- A double result: both halves are written (46_fpa_instructions.md R344). -/
def State.writeDouble (s : State) (r : Reg) (v : Raw) : State :=
  (s.writeFgr r (v.extractLsb' 0 32)).writeFgr (r + 1) (v.extractLsb' 32 32)

/-! ## Coprocessor conditions (43_special_coprocessor.md R270, R272) -/

/-- `CpCond(1)` as BC1T and BC1F see it: FCR31.C, and right after a compare the old or the new one
(46_fpa_instructions.md R366, R367 b; log 8). -/
def State.fpaCondition (s : State) : Bool :=
  match s.seq.condPending with
  | some old => if s.freeBit .condDelay then s.fcr31.c else old
  | none => s.fcr31.c

end Sys2Proof.Machine
end

