-- ==== Sys2Proof/Machine/Float.lean ====
section
/-! DEFINITION. FPA arithmetic: formats, exact values, rounding, and the value rule of each computational,
conversion and compare instruction (45_fpa_formats.md, 46_fpa_instructions.md). -/

namespace Sys2Proof.Machine

/-! ## Formats -/

/-- Format parameters (45_fpa_formats.md R314). -/
structure Format where
  prec : Nat
  emin : Int
  emax : Int
  bias : Int
  expBits : Nat
  fracBits : Nat
  width : Nat
deriving DecidableEq, Repr

/-- Single precision (45_fpa_formats.md R312, R314). -/
def single : Format :=
  { prec := 24, emin := -126, emax := 127, bias := 127, expBits := 8, fracBits := 23, width := 32 }

/-- Double precision (45_fpa_formats.md R313, R314). -/
def double : Format :=
  { prec := 53, emin := -1022, emax := 1023, bias := 1023, expBits := 11, fracBits := 52, width := 64 }

/-- The value of a bit pattern, by class; a finite number's magnitude is `mant * 2 ^ exp`
(45_fpa_formats.md R315, R317). -/
inductive FpValue where
  | nan (signaling : Bool)
  | inf (neg : Bool)
  | zero (neg : Bool)
  | finite (neg denorm : Bool) (mant : Nat) (exp : Int)
deriving DecidableEq, Repr

/-- The sign of a pattern. -/
def Format.sign (f : Format) (x : Raw) : Bool := x.getLsbD (f.width - 1)

/-- The biased exponent of a pattern (45_fpa_formats.md R312, R313). -/
def Format.exponent (f : Format) (x : Raw) : Nat := (x.toNat / 2 ^ f.fracBits) % 2 ^ f.expBits

/-- The fraction of a pattern (45_fpa_formats.md R312, R313). -/
def Format.fraction (f : Format) (x : Raw) : Nat := x.toNat % 2 ^ f.fracBits

/-- The value of a pattern; a NaN is signaling when its fraction's top bit is set
(45_fpa_formats.md R315, R316). -/
def Format.value (f : Format) (x : Raw) : FpValue :=
  if f.exponent x = 2 ^ f.expBits - 1 then
    if f.fraction x = 0 then .inf (f.sign x)
    else .nan (f.fraction x / 2 ^ (f.fracBits - 1) == 1)
  else if f.exponent x = 0 then
    if f.fraction x = 0 then .zero (f.sign x)
    else .finite (f.sign x) true (f.fraction x) (f.emin - f.fracBits)
  else
    .finite (f.sign x) false (2 ^ f.fracBits + f.fraction x)
      ((f.exponent x : Int) - f.bias - f.fracBits)

/-- The sign bit of a result pattern. -/
def Format.signBit (f : Format) (neg : Bool) : Nat := if neg then 2 ^ (f.width - 1) else 0

/-- The pattern of a zero. -/
def Format.zero (f : Format) (neg : Bool) : Raw := BitVec.ofNat 64 (f.signBit neg)

/-- The pattern of an infinity (45_fpa_formats.md R319). -/
def Format.infinity (f : Format) (neg : Bool) : Raw :=
  BitVec.ofNat 64 (f.signBit neg + (2 ^ f.expBits - 1) * 2 ^ f.fracBits)

/-- The pattern of the largest finite number (45_fpa_formats.md R319). -/
def Format.largest (f : Format) (neg : Bool) : Raw :=
  BitVec.ofNat 64 (f.signBit neg + (2 ^ f.expBits - 1) * 2 ^ f.fracBits - 1)

/-- The pattern of the normalized number with significand `m` of `prec` bits and exponent `e`
(45_fpa_formats.md R315 (3)). -/
def Format.normal (f : Format) (neg : Bool) (m : Nat) (e : Int) : Raw :=
  BitVec.ofNat 64
    (f.signBit neg + (e + f.bias).toNat * 2 ^ f.fracBits + (m - 2 ^ f.fracBits))

/-! ## Exceptions -/

/-- A set of FPA exceptions, E V Z O U I from bit 5 to bit 0 (10_state.md R66). -/
abbrev FpExceptions := BitVec 6

/-- No exception. -/
def fpNone : FpExceptions := 0
/-- Unimplemented operation. -/
def fpE : FpExceptions := 0x20
/-- Invalid operation. -/
def fpV : FpExceptions := 0x10
/-- Division by zero. -/
def fpZ : FpExceptions := 0x08
/-- Overflow, which also sets Inexact (46_fpa_instructions.md R369). -/
def fpOI : FpExceptions := 0x05
/-- Inexact. -/
def fpI : FpExceptions := 0x01

/-- What a value rule answers: the exceptions and the result pattern. -/
structure FpOutcome where
  exceptions : FpExceptions
  value : Raw
deriving DecidableEq, Repr

/-- An exact result. -/
def FpOutcome.exact (x : Raw) : FpOutcome := { exceptions := fpNone, value := x }

/-- An exception that leaves no result. -/
def FpOutcome.raised (e : FpExceptions) : FpOutcome := { exceptions := e, value := 0 }

/-! ## Rounding (45_fpa_formats.md R321) -/

/-- Whether the magnitude rounds up, from the truncated quotient, the remainder and the divisor:
RN to nearest with ties to even, RZ never, RP up when positive, RM up when negative. -/
def roundsUp (rm : BitVec 2) (neg : Bool) (q r d : Nat) : Bool :=
  match rm.toNat with
  | 0 => decide (d < 2 * r) || (decide (2 * r = d) && q % 2 == 1)
  | 1 => false
  | 2 => decide (r ≠ 0) && !neg
  | _ => decide (r ≠ 0) && neg

/-- The exponent of `num / den`: the `e` with `2 ^ e ≤ num / den < 2 ^ (e + 1)`, for non-zero
arguments. -/
def floorLog2 (num den : Nat) : Int :=
  let k : Int := (num.log2 : Int) - (den.log2 : Int)
  if den * 2 ^ k.toNat ≤ num * 2 ^ (-k).toNat then k else k - 1

/-- A rounded magnitude: significand, exponent of its leading bit, and whether it is inexact. -/
structure Rounded where
  mant : Nat
  exp : Int
  inexact : Bool
deriving DecidableEq, Repr

/-- Round `num / den` to `prec` bits, the exponent unbounded (45_fpa_formats.md R321). -/
def roundMagnitude (prec : Nat) (rm : BitVec 2) (neg : Bool) (num den : Nat) : Rounded :=
  let e := floorLog2 num den
  let sh : Int := (prec : Int) - 1 - e
  let n := num * 2 ^ sh.toNat
  let d := den * 2 ^ (-sh).toNat
  let q := n / d
  let r := n % d
  let m := if roundsUp rm neg q r d then q + 1 else q
  if m = 2 ^ prec then { mant := 2 ^ (prec - 1), exp := e + 1, inexact := decide (r ≠ 0) }
  else { mant := m, exp := e, inexact := decide (r ≠ 0) }

/-- `OverflowDefault` (46_fpa_instructions.md R369, 60_exceptions.md R452). -/
def overflowDefault (f : Format) (rm : BitVec 2) (neg : Bool) : Raw :=
  match rm.toNat with
  | 0 => f.infinity neg
  | 1 => f.largest neg
  | 2 => if neg then f.largest neg else f.infinity neg
  | _ => if neg then f.infinity neg else f.largest neg

/-- Finish a non-zero numeric result `± num / den` (46_fpa_instructions.md R369): tiny results are
unimplemented, too large ones overflow. `tinyAfter` says on which side of rounding tininess is detected
(45_fpa_formats.md R330). -/
def finishNumeric (tinyAfter : Bool) (f : Format) (rm : BitVec 2) (neg : Bool) (num den : Nat) :
    FpOutcome :=
  let r := roundMagnitude f.prec rm neg num den
  if r.exp < f.emin || (!tinyAfter && decide (floorLog2 num den < f.emin)) then .raised fpE
  else if f.emax < r.exp then { exceptions := fpOI, value := overflowDefault f rm neg }
  else { exceptions := if r.inexact then fpI else fpNone, value := f.normal neg r.mant r.exp }

/-- Finish `± m * 2 ^ e`. -/
def finishScaled (tinyAfter : Bool) (f : Format) (rm : BitVec 2) (neg : Bool) (m : Nat) (e : Int) :
    FpOutcome :=
  finishNumeric tinyAfter f rm neg (m * 2 ^ e.toNat) (2 ^ (-e).toNat)

/-! ## Screening (46_fpa_instructions.md R351) -/

/-- A signaling NaN. -/
def FpValue.isSnan : FpValue → Bool
  | .nan s => s
  | _ => false

/-- A quiet NaN. -/
def FpValue.isQnan : FpValue → Bool
  | .nan s => !s
  | _ => false

/-- A denormalized number. -/
def FpValue.isDenorm : FpValue → Bool
  | .finite _ d _ _ => d
  | _ => false

/-- The exception operand screening raises: V for a signaling NaN, then E for a quiet NaN, then E for a
denormalized operand (46_fpa_instructions.md R351, D34). -/
def screen (vs : List FpValue) : Option FpExceptions :=
  if vs.any FpValue.isSnan then some fpV
  else if vs.any FpValue.isQnan then some fpE
  else if vs.any FpValue.isDenorm then some fpE
  else none

/-- Apply a value rule to screened operands. -/
def screened (vs : List FpValue) (rule : FpOutcome) : FpOutcome :=
  match screen vs with
  | some e => .raised e
  | none => rule

/-! ## Value rules -/

/-- A finite operand as a signed multiple of a power of two; infinities and NaNs never reach it. -/
def FpValue.signedMant : FpValue → Int
  | .finite neg _ m _ => if neg then -(m : Int) else m
  | _ => 0

/-- The power of two of a finite operand. -/
def FpValue.power : FpValue → Int
  | .finite _ _ _ e => e
  | _ => 0

/-- The sign of an operand. -/
def FpValue.negative : FpValue → Bool
  | .nan _ => false
  | .inf n => n
  | .zero n => n
  | .finite n _ _ _ => n

/-- An operand with its sign inverted. -/
def FpValue.negate : FpValue → FpValue
  | .nan s => .nan s
  | .inf n => .inf (!n)
  | .zero n => .zero (!n)
  | .finite n d m e => .finite (!n) d m e

/-- The exact sum of two finite non-zero operands, over the smaller power of two. -/
def exactSum (a b : FpValue) : Int × Int :=
  let e := min a.power b.power
  (a.signedMant * 2 ^ (a.power - e).toNat + b.signedMant * 2 ^ (b.power - e).toNat, e)

/-- The sum of screened operands (46_fpa_instructions.md R352). -/
def addValues (tinyAfter : Bool) (f : Format) (rm : BitVec 2) (a b : FpValue) : FpOutcome :=
  match a, b with
  | .inf m, .inf n => if m = n then .exact (f.infinity m) else .raised fpV
  | .inf m, _ => .exact (f.infinity m)
  | _, .inf n => .exact (f.infinity n)
  | .zero m, .zero n => .exact (f.zero (if m = n then m else rm == 3))
  | .zero _, y => finishScaled tinyAfter f rm y.negative y.signedMant.natAbs y.power
  | x, .zero _ => finishScaled tinyAfter f rm x.negative x.signedMant.natAbs x.power
  | x, y =>
    let sum := exactSum x y
    if sum.1 = 0 then .exact (f.zero (rm == 3))
    else finishScaled tinyAfter f rm (decide (sum.1 < 0)) sum.1.natAbs sum.2

/-- ADD.fmt (46_fpa_instructions.md R352). -/
def fpAdd (tinyAfter : Bool) (f : Format) (rm : BitVec 2) (x y : Raw) : FpOutcome :=
  screened [f.value x, f.value y] (addValues tinyAfter f rm (f.value x) (f.value y))

/-- SUB.fmt: ADD of the first operand and the negated second (46_fpa_instructions.md R353). -/
def fpSub (tinyAfter : Bool) (f : Format) (rm : BitVec 2) (x y : Raw) : FpOutcome :=
  screened [f.value x, f.value y] (addValues tinyAfter f rm (f.value x) (f.value y).negate)

/-- MUL.fmt (46_fpa_instructions.md R354). -/
def fpMul (tinyAfter : Bool) (f : Format) (rm : BitVec 2) (x y : Raw) : FpOutcome :=
  let a := f.value x
  let b := f.value y
  let s := a.negative != b.negative
  screened [a, b] <|
    match a, b with
    | .inf _, .zero _ => .raised fpV
    | .zero _, .inf _ => .raised fpV
    | .inf _, _ => .exact (f.infinity s)
    | _, .inf _ => .exact (f.infinity s)
    | .zero _, _ => .exact (f.zero s)
    | _, .zero _ => .exact (f.zero s)
    | _, _ =>
      finishScaled tinyAfter f rm s (a.signedMant.natAbs * b.signedMant.natAbs) (a.power + b.power)

/-- DIV.fmt (46_fpa_instructions.md R355). -/
def fpDiv (tinyAfter : Bool) (f : Format) (rm : BitVec 2) (x y : Raw) : FpOutcome :=
  let a := f.value x
  let b := f.value y
  let s := a.negative != b.negative
  screened [a, b] <|
    match a, b with
    | .zero _, .zero _ => .raised fpV
    | .inf _, .inf _ => .raised fpV
    | .inf _, _ => .exact (f.infinity s)
    | _, .zero _ => { exceptions := fpZ, value := f.infinity s }
    | _, .inf _ => .exact (f.zero s)
    | .zero _, _ => .exact (f.zero s)
    | _, _ =>
      let e := a.power - b.power
      finishNumeric tinyAfter f rm s (a.signedMant.natAbs * 2 ^ e.toNat)
        (b.signedMant.natAbs * 2 ^ (-e).toNat)

/-- The sign bit of a format as a mask. -/
def Format.signMask (f : Format) : Raw := BitVec.ofNat 64 (2 ^ (f.width - 1))

/-- ABS.fmt: the sign bit cleared (46_fpa_instructions.md R356). -/
def fpAbs (f : Format) (x : Raw) : FpOutcome :=
  screened [f.value x] (.exact (x &&& ~~~f.signMask))

/-- NEG.fmt: the sign bit inverted (46_fpa_instructions.md R358). -/
def fpNeg (f : Format) (x : Raw) : FpOutcome :=
  screened [f.value x] (.exact (x ^^^ f.signMask))

/-- MOV.fmt: any pattern, unscreened (46_fpa_instructions.md R357). -/
def fpMov (x : Raw) : FpOutcome := .exact x

/-- CVT.S.D and CVT.D.S: the screened operand in the other format (46_fpa_instructions.md R360, R361). -/
def fpConvert (tinyAfter : Bool) (src dst : Format) (rm : BitVec 2) (x : Raw) : FpOutcome :=
  let a := src.value x
  screened [a] <|
    match a with
    | .inf n => .exact (dst.infinity n)
    | .zero n => .exact (dst.zero n)
    | .nan _ => .raised fpE
    | .finite n _ m e => finishScaled tinyAfter dst rm n m e

/-- CVT.S.W and CVT.D.W: a signed integer, never screened (46_fpa_instructions.md R360, R361). -/
def fpOfFixed (tinyAfter : Bool) (dst : Format) (rm : BitVec 2) (x : Raw) : FpOutcome :=
  let n : Int := (x.extractLsb' 0 32).toInt
  if n = 0 then .exact (dst.zero false)
  else finishScaled tinyAfter dst rm (decide (n < 0)) n.natAbs 0

/-- `m * 2 ^ e` rounded to an integer magnitude, and whether it was inexact
(46_fpa_instructions.md R362). -/
def roundInteger (rm : BitVec 2) (neg : Bool) (m : Nat) (e : Int) : Nat × Bool :=
  let n := m * 2 ^ e.toNat
  let d := 2 ^ (-e).toNat
  (if roundsUp rm neg (n / d) (n % d) d then n / d + 1 else n / d, decide (n % d ≠ 0))

/-- CVT.W.fmt (46_fpa_instructions.md R362). -/
def fpToFixed (src : Format) (rm : BitVec 2) (x : Raw) : FpOutcome :=
  match src.value x with
  | .nan _ => .raised fpV
  | .inf _ => .raised fpV
  | .zero _ => .exact 0
  | .finite neg denorm m e =>
    if denorm then .raised fpE
    else
      let r := roundInteger rm neg m e
      let n : Int := if neg then -(r.1 : Int) else r.1
      if n < -(2 ^ 31) || 2 ^ 31 - 1 < n then .raised fpV
      else { exceptions := if r.2 then fpI else fpNone,
             value := (BitVec.ofInt 32 n).zeroExtend 64 }

/-! ## Comparison (45_fpa_formats.md R325, R326) -/

/-- The four mutually exclusive relations (45_fpa_formats.md R324). -/
inductive Relation where
  | less
  | equal
  | greater
  | unordered
deriving DecidableEq, Repr

/-- The relation of two integers. -/
def relationOf (a b : Int) : Relation :=
  if a < b then .less else if a = b then .equal else .greater

/-- The relation of two values: -0 equals +0, infinities bound every finite number, denormalized numbers
compare by value (45_fpa_formats.md R326). -/
def relation (a b : FpValue) : Relation :=
  match a, b with
  | .nan _, _ => .unordered
  | _, .nan _ => .unordered
  | .inf m, .inf n => if m = n then .equal else if m then .less else .greater
  | .inf m, _ => if m then .less else .greater
  | _, .inf n => if n then .greater else .less
  | x, y =>
    let e := min x.power y.power
    relationOf (x.signedMant * 2 ^ (x.power - e).toNat) (y.signedMant * 2 ^ (y.power - e).toNat)

/-- Whether the condition holds: cond[2] for less, cond[1] for equal, cond[0] for unordered
(45_fpa_formats.md R325, 46_fpa_instructions.md R364). -/
def conditionHolds (cond : BitVec 4) (r : Relation) : Bool :=
  match r with
  | .less => cond.getLsbD 2
  | .equal => cond.getLsbD 1
  | .greater => false
  | .unordered => cond.getLsbD 0

/-- The exceptions of a compare: V when unordered and cond[3] (46_fpa_instructions.md R364, D20). -/
def compareExceptions (cond : BitVec 4) (r : Relation) : FpExceptions :=
  if r = .unordered && cond.getLsbD 3 then fpV else fpNone

end Sys2Proof.Machine
end

