-- ==== Sys2Proof/Machine/Flags.lean ====
section
/-! DEFINITION. Flag computations: two's complement overflow, the set-on-less results, the branch
conditions, and what an FPA instruction does to FCR31. -/

namespace Sys2Proof.Machine

/-! ## Integer (41_computational.md R199, R204, R205; 42_jump_branch.md R257) -/

/-- A sum overflows: equal signs in, the other sign out (41_computational.md R199). -/
def addOverflows (a b : Word) : Bool := a.msb == b.msb && (a + b).msb != a.msb

/-- A difference overflows: different signs in, the subtrahend's sign out (41_computational.md R199). -/
def subOverflows (a b : Word) : Bool := a.msb != b.msb && (a - b).msb == b.msb

/-- 1 or 0 (41_computational.md R190). -/
def boolWord (b : Bool) : Word := if b then 1 else 0

/-- Signed less than (41_computational.md R204). -/
def lessSigned (a b : Word) : Bool := a.slt b

/-- Unsigned less than (41_computational.md R205). -/
def lessUnsigned (a b : Word) : Bool := a.ult b

/-- Less than or equal to zero (42_jump_branch.md R248). -/
def lessEqualZero (a : Word) : Bool := a.msb || a == 0

/-! ## FCR31 (46_fpa_instructions.md R342) -/

/-- An untrapped V becomes E, except in a compare (46_fpa_instructions.md R342; 90_conflicts.md C17). -/
def settleExceptions (isCompare : Bool) (enables : BitVec 5) (e : FpExceptions) : FpExceptions :=
  if e.getLsbD 4 && !enables.getLsbD 4 && !isCompare then fpE else e

/-- FCR31 after an operation: Exceptions loaded, Sticky accumulated without E
(46_fpa_instructions.md R342, 60_exceptions.md R451). -/
def Fcr31.record (x : Fcr31) (e : FpExceptions) : Fcr31 :=
  { x with exceptions := e, sticky := x.sticky ||| e.extractLsb' 0 5 }

/-- An operation loads Exceptions and accumulates Sticky; an interrupt line that is asserted stays so
(46_fpa_instructions.md R342, 60_exceptions.md R450, R455; 10_state.md R66). -/
def State.recordFp (s : State) (e : FpExceptions) : State :=
  { s with fcr31 := s.fcr31.record e, fpaHeld := s.fpaLine }

/-- Whether the operation traps: E, or an enabled exception (46_fpa_instructions.md R342). -/
def fpTraps (x : Fcr31) (e : FpExceptions) : Bool := fpaInterrupt { x with exceptions := e }

/-- An FPA trap: the interrupt is taken on the instruction itself when it is enabled, else the
instruction completes without a result and the line stays asserted (60_exceptions.md R450, R455;
log 28). -/
def State.fpTrap (s : State) (e : FpExceptions) : Result :=
  let t := s.recordFp e
  if s.fpaInterruptEnabled then t.raise .int else .next t.retire

/-- The end of a computational or conversion instruction (46_fpa_instructions.md R342): record the
exceptions, then trap, or write the result. -/
def State.finishFp (s : State) (o : FpOutcome) (write : State → Raw → State) : Result :=
  let e := settleExceptions false s.fcr31.enables o.exceptions
  if fpTraps s.fcr31 e then s.fpTrap e
  else .next (write (s.recordFp e).retire o.value)

/-- The end of a compare (46_fpa_instructions.md R364): record V, then trap with C unchanged, or write C,
which BC1T and BC1F see one instruction later (R367 b). -/
def State.finishCompare (s : State) (cond : BitVec 4) (r : Relation) : Result :=
  let e := compareExceptions cond r
  if fpTraps s.fcr31 e then s.fpTrap e
  else
    let t := ((s.recordFp e).withFcr31 { s.fcr31.record e with c := conditionHolds cond r }).retire
    .next (t.withSeq { t.seq with condPending := some s.fcr31.c })

end Sys2Proof.Machine
end

