-- ==== Sys2Proof/Machine/Alu.lean ====
section
/-! DEFINITION. The ALU immediate, three-operand and shift instructions (41_computational.md R190 to R216). -/

namespace Sys2Proof.Machine

/-- The instruction completes with a result in a general register; a result for r0 is discarded
(41_computational.md R190). -/
def State.result (s : State) (r : Reg) (v : Word) : Result := .next (s.retire.writeReg r v)

/-- The same for an instruction that traps on overflow instead: no register is written then
(41_computational.md R199). -/
def State.resultOrOverflow (s : State) (overflow : Bool) (r : Reg) (v : Word) : Result :=
  if overflow then s.raise .ovf else s.result r v

/-- `ADDI`: add immediate, trap on overflow (41_computational.md R191). -/
def execAddi (rs rt : Reg) (imm : BitVec 16) (s : State) : Result :=
  s.resultOrOverflow (addOverflows (s.readReg rs) (sext16 imm)) rt (s.readReg rs + sext16 imm)

/-- `ADDIU`: add immediate (41_computational.md R192). -/
def execAddiu (rs rt : Reg) (imm : BitVec 16) (s : State) : Result :=
  s.result rt (s.readReg rs + sext16 imm)

/-- `SLTI`: set on less than immediate, signed (41_computational.md R193). -/
def execSlti (rs rt : Reg) (imm : BitVec 16) (s : State) : Result :=
  s.result rt (boolWord (lessSigned (s.readReg rs) (sext16 imm)))

/-- `SLTIU`: set on less than immediate, unsigned (41_computational.md R194). -/
def execSltiu (rs rt : Reg) (imm : BitVec 16) (s : State) : Result :=
  s.result rt (boolWord (lessUnsigned (s.readReg rs) (sext16 imm)))

/-- `ANDI`: AND with the zero-extended immediate (41_computational.md R195). -/
def execAndi (rs rt : Reg) (imm : BitVec 16) (s : State) : Result :=
  s.result rt (s.readReg rs &&& zext16 imm)

/-- `ORI`: OR with the zero-extended immediate (41_computational.md R196). -/
def execOri (rs rt : Reg) (imm : BitVec 16) (s : State) : Result :=
  s.result rt (s.readReg rs ||| zext16 imm)

/-- `XORI`: exclusive OR with the zero-extended immediate (41_computational.md R197). -/
def execXori (rs rt : Reg) (imm : BitVec 16) (s : State) : Result :=
  s.result rt (s.readReg rs ^^^ zext16 imm)

/-- `LUI`: load upper immediate (41_computational.md R198). -/
def execLui (rt : Reg) (imm : BitVec 16) (s : State) : Result :=
  s.result rt (imm ++ (0#16))

/-- `ADD`: add, trap on overflow (41_computational.md R200). -/
def execAdd (rs rt rd : Reg) (s : State) : Result :=
  s.resultOrOverflow (addOverflows (s.readReg rs) (s.readReg rt)) rd (s.readReg rs + s.readReg rt)

/-- `ADDU`: add (41_computational.md R201). -/
def execAddu (rs rt rd : Reg) (s : State) : Result :=
  s.result rd (s.readReg rs + s.readReg rt)

/-- `SUB`: subtract, trap on overflow (41_computational.md R202). -/
def execSub (rs rt rd : Reg) (s : State) : Result :=
  s.resultOrOverflow (subOverflows (s.readReg rs) (s.readReg rt)) rd (s.readReg rs - s.readReg rt)

/-- `SUBU`: subtract (41_computational.md R203). -/
def execSubu (rs rt rd : Reg) (s : State) : Result :=
  s.result rd (s.readReg rs - s.readReg rt)

/-- `AND`: bitwise AND (41_computational.md R206). -/
def execAnd (rs rt rd : Reg) (s : State) : Result :=
  s.result rd (s.readReg rs &&& s.readReg rt)

/-- `OR`: bitwise OR (41_computational.md R207). -/
def execOr (rs rt rd : Reg) (s : State) : Result :=
  s.result rd (s.readReg rs ||| s.readReg rt)

/-- `XOR`: bitwise exclusive OR (41_computational.md R208). -/
def execXor (rs rt rd : Reg) (s : State) : Result :=
  s.result rd (s.readReg rs ^^^ s.readReg rt)

/-- `NOR`: bitwise NOR (41_computational.md R209). -/
def execNor (rs rt rd : Reg) (s : State) : Result :=
  s.result rd (~~~(s.readReg rs ||| s.readReg rt))

/-- `SLT`: set on less than, signed (41_computational.md R204). -/
def execSlt (rs rt rd : Reg) (s : State) : Result :=
  s.result rd (boolWord (lessSigned (s.readReg rs) (s.readReg rt)))

/-- `SLTU`: set on less than, unsigned (41_computational.md R205). -/
def execSltu (rs rt rd : Reg) (s : State) : Result :=
  s.result rd (boolWord (lessUnsigned (s.readReg rs) (s.readReg rt)))

/-- `SLL`: shift left logical (41_computational.md R211). -/
def execSll (rt rd : Reg) (shamt : BitVec 5) (s : State) : Result :=
  s.result rd (shiftLeft (s.readReg rt) shamt.toNat)

/-- `SRL`: shift right logical (41_computational.md R212). -/
def execSrl (rt rd : Reg) (shamt : BitVec 5) (s : State) : Result :=
  s.result rd (shiftRight (s.readReg rt) shamt.toNat)

/-- `SRA`: shift right arithmetic (41_computational.md R213). -/
def execSra (rt rd : Reg) (shamt : BitVec 5) (s : State) : Result :=
  s.result rd (shiftRightArith (s.readReg rt) shamt.toNat)

/-- `SLLV`: shift left logical variable (41_computational.md R214). -/
def execSllv (rs rt rd : Reg) (s : State) : Result :=
  s.result rd (shiftLeft (s.readReg rt) (shiftCount (s.readReg rs)))

/-- `SRLV`: shift right logical variable (41_computational.md R215). -/
def execSrlv (rs rt rd : Reg) (s : State) : Result :=
  s.result rd (shiftRight (s.readReg rt) (shiftCount (s.readReg rs)))

/-- `SRAV`: shift right arithmetic variable (41_computational.md R216). -/
def execSrav (rs rt rd : Reg) (s : State) : Result :=
  s.result rd (shiftRightArith (s.readReg rt) (shiftCount (s.readReg rs)))

end Sys2Proof.Machine
end

