-- ==== Sys2Proof/Machine/Jump.lean ====
section
/-! DEFINITION. The jumps and branches of the CPU (42_jump_branch.md). -/

namespace Sys2Proof.Machine

/-- A jump or branch completes: the delay slot comes next, then the target if there is one. In a delay
slot the spec gives it no meaning (42_jump_branch.md R240, R254; log 10). -/
def State.transfer (s : State) (target : Option Word) : Result :=
  if s.seq.inDelaySlot then .refused .branchInDelaySlot else .next (s.advance true target)

/-- The same, with the address after the delay slot in a link register, written before the delay slot
executes (42_jump_branch.md R241, R255). -/
def State.transferLink (s : State) (link : Reg) (target : Option Word) : Result :=
  if s.seq.inDelaySlot then .refused .branchInDelaySlot
  else .next ((s.advance true target).writeReg link (linkAddress s.pc))

/-- The target of a branch that is taken or not (42_jump_branch.md R258). -/
def State.branchTo (s : State) (taken : Bool) (offset : BitVec 16) : Option Word :=
  if taken then some (branchTarget s.pc offset) else none

/-- `J`: jump (42_jump_branch.md R242). -/
def execJ (target : BitVec 26) (s : State) : Result :=
  s.transfer (some (jumpTarget s.pc target))

/-- `JAL`: jump and link (42_jump_branch.md R243). -/
def execJal (target : BitVec 26) (s : State) : Result :=
  s.transferLink 31 (some (jumpTarget s.pc target))

/-- `JR`: jump register (42_jump_branch.md R244). -/
def execJr (rs : Reg) (s : State) : Result :=
  s.transfer (some (s.readReg rs))

/-- `JALR`: jump and link register (42_jump_branch.md R245). -/
def execJalr (rs rd : Reg) (s : State) : Result :=
  s.transferLink rd (some (s.readReg rs))

/-- `BEQ`: branch on equal (42_jump_branch.md R246). -/
def execBeq (rs rt : Reg) (offset : BitVec 16) (s : State) : Result :=
  s.transfer (s.branchTo (s.readReg rs == s.readReg rt) offset)

/-- `BNE`: branch on not equal (42_jump_branch.md R247). -/
def execBne (rs rt : Reg) (offset : BitVec 16) (s : State) : Result :=
  s.transfer (s.branchTo (s.readReg rs != s.readReg rt) offset)

/-- `BLEZ`: branch on less than or equal to zero (42_jump_branch.md R248). -/
def execBlez (rs : Reg) (offset : BitVec 16) (s : State) : Result :=
  s.transfer (s.branchTo (lessEqualZero (s.readReg rs)) offset)

/-- `BGTZ`: branch on greater than zero (42_jump_branch.md R249). -/
def execBgtz (rs : Reg) (offset : BitVec 16) (s : State) : Result :=
  s.transfer (s.branchTo (!lessEqualZero (s.readReg rs)) offset)

/-- `BLTZ`: branch on less than zero (42_jump_branch.md R250). -/
def execBltz (rs : Reg) (offset : BitVec 16) (s : State) : Result :=
  s.transfer (s.branchTo (s.readReg rs).msb offset)

/-- `BGEZ`: branch on greater than or equal to zero (42_jump_branch.md R253). -/
def execBgez (rs : Reg) (offset : BitVec 16) (s : State) : Result :=
  s.transfer (s.branchTo (!(s.readReg rs).msb) offset)

/-- `BLTZAL`: branch on less than zero and link (42_jump_branch.md R251). -/
def execBltzal (rs : Reg) (offset : BitVec 16) (s : State) : Result :=
  s.transferLink 31 (s.branchTo (s.readReg rs).msb offset)

/-- `BGEZAL`: branch on greater than or equal to zero and link (42_jump_branch.md R252). -/
def execBgezal (rs : Reg) (offset : BitVec 16) (s : State) : Result :=
  s.transferLink 31 (s.branchTo (!(s.readReg rs).msb) offset)

end Sys2Proof.Machine
end

