-- ==== Sys2Proof/Machine/FpaMove.lean ====
section
/-! DEFINITION. FPA loads, stores, moves and branches (46_fpa_instructions.md R345 to R350, R366). -/

namespace Sys2Proof.Machine

/-- The tests of every CP1 instruction: usable, and an FPA present (46_fpa_instructions.md R340,
43_special_coprocessor.md R276; log 22). -/
def State.fpaInstruction (s : State) (k : Result) : Result :=
  if !s.usable 1 then s.raise (.cpu 1)
  else if !s.chip.hasFpa then .refused .noFpa
  else k

/-- FCR31 as CFC1 reads it; reserved bits are free (10_state.md R64; log 29). -/
def State.fcr31Read (s : State) : Word := fcr31Word (s.freeWord .fcr31Reserved) s.fcr31

/-- A value loaded into FCR31 by CTC1 alone decides the interrupt line (60_exceptions.md R450; log 28). -/
def State.loadFcr31 (s : State) (v : Fcr31) : State := { s with fcr31 := v, fpaHeld := false }

/-- CTC1 to FCR31; BC1T and BC1F see the new C one instruction later (46_fpa_instructions.md R349,
R367 b). -/
def State.writeFcr31 (s : State) (v : Word) : State :=
  let t := (s.loadFcr31 (fcr31OfWord v)).retire
  t.withSeq { t.seq with condPending := some s.fcr31.c }

/-- `LWC1`: load word to the FPA, delivered after the next instruction (46_fpa_instructions.md R345). -/
def execLwc1 (base ft : Reg) (offset : BitVec 16) (s : State) : Result :=
  s.fpaInstruction
    ((s.memRead (s.effectiveAddress base offset) .word).finish fun w t =>
      .next (t.retire.deferFpLoad ft w))

/-- `SWC1`: store word from the FPA (46_fpa_instructions.md R346). -/
def execSwc1 (base ft : Reg) (offset : BitVec 16) (s : State) : Result :=
  s.fpaInstruction
    ((s.memWrite (s.effectiveAddress base offset) .word (s.readFgr ft)).finish fun _ t =>
      .next t.retire)

/-- `MFC1`: move word from the FPA, delivered like a load (46_fpa_instructions.md R348). -/
def execMfc1 (rt fs : Reg) (s : State) : Result :=
  s.fpaInstruction (.next (s.retire.deferLoad rt (s.readFgr fs)))

/-- `CFC1`: move control word from the FPA, delivered like a load (46_fpa_instructions.md R350). -/
def execCfc1 (rt fs : Reg) (s : State) : Result :=
  s.fpaInstruction <|
    if fs = 31 then .next (s.retire.deferLoad rt s.fcr31Read)
    else if fs = 0 then .next (s.retire.deferLoad rt (fcr0Word s.chip))
    else .refused .reservedFcr

/-- `MTC1`: move word to the FPA, delivered after the next instruction (46_fpa_instructions.md R347). -/
def execMtc1 (rt fs : Reg) (s : State) : Result :=
  s.fpaInstruction (.next (s.retire.deferFpLoad fs (s.readReg rt)))

/-- `CTC1`: move control word to the FPA; FCR0 is read only (46_fpa_instructions.md R349). -/
def execCtc1 (rt fs : Reg) (s : State) : Result :=
  s.fpaInstruction <|
    if fs = 31 then .next (s.writeFcr31 (s.readReg rt))
    else if fs = 0 then .next s.retire
    else .refused .reservedFcr

/-- `BC1F`: branch if the FPA condition is false (46_fpa_instructions.md R366). -/
def execBc1f (offset : BitVec 16) (s : State) : Result :=
  s.fpaInstruction (s.transfer (s.branchTo (!s.fpaCondition) offset))

/-- `BC1T`: branch if the FPA condition is true (46_fpa_instructions.md R366). -/
def execBc1t (offset : BitVec 16) (s : State) : Result :=
  s.fpaInstruction (s.transfer (s.branchTo s.fpaCondition offset))

end Sys2Proof.Machine
end

