-- ==== Sys2Proof/WellFormed.lean ====
section
/-! DEFINITION. Well-formed instructions: the operand restrictions the spec puts on an instruction that
an encoding alone does not enforce. -/

namespace Sys2Proof

/-- An FPR number of a computational, conversion or compare instruction is even
(46_fpa_instructions.md R343). -/
def evenFpr (r : Reg) : Bool := !r.getLsbD 0

/-- The FPA control registers that exist (10_state.md R70). -/
def definedFcr (r : Reg) : Bool := r == 0 || r == 31

/-- The operand restrictions (46_fpa_instructions.md R343, R349, R350); any other operand is free. -/
def Instr.wellFormed : Instr → Bool
  | .lb _ _ _ => true
  | .lh _ _ _ => true
  | .lwl _ _ _ => true
  | .lw _ _ _ => true
  | .lbu _ _ _ => true
  | .lhu _ _ _ => true
  | .lwr _ _ _ => true
  | .sb _ _ _ => true
  | .sh _ _ _ => true
  | .swl _ _ _ => true
  | .sw _ _ _ => true
  | .swr _ _ _ => true
  | .addi _ _ _ => true
  | .addiu _ _ _ => true
  | .slti _ _ _ => true
  | .sltiu _ _ _ => true
  | .andi _ _ _ => true
  | .ori _ _ _ => true
  | .xori _ _ _ => true
  | .lui _ _ => true
  | .add _ _ _ => true
  | .addu _ _ _ => true
  | .sub _ _ _ => true
  | .subu _ _ _ => true
  | .and _ _ _ => true
  | .or _ _ _ => true
  | .xor _ _ _ => true
  | .nor _ _ _ => true
  | .slt _ _ _ => true
  | .sltu _ _ _ => true
  | .sll _ _ _ => true
  | .srl _ _ _ => true
  | .sra _ _ _ => true
  | .sllv _ _ _ => true
  | .srlv _ _ _ => true
  | .srav _ _ _ => true
  | .mult _ _ => true
  | .multu _ _ => true
  | .div _ _ => true
  | .divu _ _ => true
  | .mfhi _ => true
  | .mthi _ => true
  | .mflo _ => true
  | .mtlo _ => true
  | .j _ => true
  | .jal _ => true
  | .jr _ => true
  | .jalr _ _ => true
  | .beq _ _ _ => true
  | .bne _ _ _ => true
  | .blez _ _ => true
  | .bgtz _ _ => true
  | .bltz _ _ => true
  | .bgez _ _ => true
  | .bltzal _ _ => true
  | .bgezal _ _ => true
  | .syscall _ => true
  | .brk _ => true
  | .mfc0 _ _ => true
  | .mtc0 _ _ => true
  | .tlbr => true
  | .tlbwi => true
  | .tlbwr => true
  | .tlbp => true
  | .rfe => true
  | .bc0f _ => true
  | .bc0t _ => true
  | .bc2f _ => true
  | .bc2t _ => true
  | .bc3f _ => true
  | .bc3t _ => true
  | .lwc1 _ _ _ => true
  | .swc1 _ _ _ => true
  | .mfc1 _ _ => true
  | .cfc1 _ fs => definedFcr fs
  | .mtc1 _ _ => true
  | .ctc1 _ fs => definedFcr fs
  | .bc1f _ => true
  | .bc1t _ => true
  | .addS ft fs fd => evenFpr ft && evenFpr fs && evenFpr fd
  | .addD ft fs fd => evenFpr ft && evenFpr fs && evenFpr fd
  | .subS ft fs fd => evenFpr ft && evenFpr fs && evenFpr fd
  | .subD ft fs fd => evenFpr ft && evenFpr fs && evenFpr fd
  | .mulS ft fs fd => evenFpr ft && evenFpr fs && evenFpr fd
  | .mulD ft fs fd => evenFpr ft && evenFpr fs && evenFpr fd
  | .divS ft fs fd => evenFpr ft && evenFpr fs && evenFpr fd
  | .divD ft fs fd => evenFpr ft && evenFpr fs && evenFpr fd
  | .absS fs fd => evenFpr fs && evenFpr fd
  | .absD fs fd => evenFpr fs && evenFpr fd
  | .movS fs fd => evenFpr fs && evenFpr fd
  | .movD fs fd => evenFpr fs && evenFpr fd
  | .negS fs fd => evenFpr fs && evenFpr fd
  | .negD fs fd => evenFpr fs && evenFpr fd
  | .cvtSD fs fd => evenFpr fs && evenFpr fd
  | .cvtSW fs fd => evenFpr fs && evenFpr fd
  | .cvtDS fs fd => evenFpr fs && evenFpr fd
  | .cvtDW fs fd => evenFpr fs && evenFpr fd
  | .cvtWS fs fd => evenFpr fs && evenFpr fd
  | .cvtWD fs fd => evenFpr fs && evenFpr fd
  | .cFS ft fs => evenFpr ft && evenFpr fs
  | .cFD ft fs => evenFpr ft && evenFpr fs
  | .cUnS ft fs => evenFpr ft && evenFpr fs
  | .cUnD ft fs => evenFpr ft && evenFpr fs
  | .cEqS ft fs => evenFpr ft && evenFpr fs
  | .cEqD ft fs => evenFpr ft && evenFpr fs
  | .cUeqS ft fs => evenFpr ft && evenFpr fs
  | .cUeqD ft fs => evenFpr ft && evenFpr fs
  | .cOltS ft fs => evenFpr ft && evenFpr fs
  | .cOltD ft fs => evenFpr ft && evenFpr fs
  | .cUltS ft fs => evenFpr ft && evenFpr fs
  | .cUltD ft fs => evenFpr ft && evenFpr fs
  | .cOleS ft fs => evenFpr ft && evenFpr fs
  | .cOleD ft fs => evenFpr ft && evenFpr fs
  | .cUleS ft fs => evenFpr ft && evenFpr fs
  | .cUleD ft fs => evenFpr ft && evenFpr fs
  | .cSfS ft fs => evenFpr ft && evenFpr fs
  | .cSfD ft fs => evenFpr ft && evenFpr fs
  | .cNgleS ft fs => evenFpr ft && evenFpr fs
  | .cNgleD ft fs => evenFpr ft && evenFpr fs
  | .cSeqS ft fs => evenFpr ft && evenFpr fs
  | .cSeqD ft fs => evenFpr ft && evenFpr fs
  | .cNglS ft fs => evenFpr ft && evenFpr fs
  | .cNglD ft fs => evenFpr ft && evenFpr fs
  | .cLtS ft fs => evenFpr ft && evenFpr fs
  | .cLtD ft fs => evenFpr ft && evenFpr fs
  | .cNgeS ft fs => evenFpr ft && evenFpr fs
  | .cNgeD ft fs => evenFpr ft && evenFpr fs
  | .cLeS ft fs => evenFpr ft && evenFpr fs
  | .cLeD ft fs => evenFpr ft && evenFpr fs
  | .cNgtS ft fs => evenFpr ft && evenFpr fs
  | .cNgtD ft fs => evenFpr ft && evenFpr fs

end Sys2Proof
end

