-- ==== Sys2Proof/Machine/FpaArith.lean ====
section
/-! DEFINITION. The computational and conversion instructions of the FPA (46_fpa_instructions.md R352 to R362). -/

namespace Sys2Proof.Machine

/-- The tests of a computational instruction: usable, an FPA present, even register numbers
(46_fpa_instructions.md R342, R343; log 25). -/
def State.fpaOperation (s : State) (even : Bool) (k : Result) : Result :=
  s.fpaInstruction (if even then k else .refused .oddFpr)

/-- Finish with a 32-bit result in `fd` (46_fpa_instructions.md R344). -/
def State.finishSingle (s : State) (fd : Reg) (o : FpOutcome) : Result :=
  s.finishFp o fun t v => t.writeSingle s.seq.draws fd (v.extractLsb' 0 32)

/-- Finish with a double result in `fd` (46_fpa_instructions.md R344). -/
def State.finishDouble (s : State) (fd : Reg) (o : FpOutcome) : Result :=
  s.finishFp o fun t v => t.writeDouble fd v

/-- The tininess parameter (45_fpa_formats.md R330). -/
def State.tinyAfter (s : State) : Bool := s.chip.fpTinyAfterRounding

/-- `ADD.S`: add, single precision (46_fpa_instructions.md R352). -/
def execAddS (ft fs fd : Reg) (s : State) : Result :=
  s.fpaOperation (evenFpr ft && evenFpr fs && evenFpr fd)
    (s.finishSingle fd
      (fpAdd s.tinyAfter single s.fcr31.rm (s.readSingle fs) (s.readSingle ft)))

/-- `ADD.D`: add, double precision (46_fpa_instructions.md R352). -/
def execAddD (ft fs fd : Reg) (s : State) : Result :=
  s.fpaOperation (evenFpr ft && evenFpr fs && evenFpr fd)
    (s.finishDouble fd
      (fpAdd s.tinyAfter double s.fcr31.rm (s.readDouble fs) (s.readDouble ft)))

/-- `SUB.S`: subtract, single precision (46_fpa_instructions.md R353). -/
def execSubS (ft fs fd : Reg) (s : State) : Result :=
  s.fpaOperation (evenFpr ft && evenFpr fs && evenFpr fd)
    (s.finishSingle fd
      (fpSub s.tinyAfter single s.fcr31.rm (s.readSingle fs) (s.readSingle ft)))

/-- `SUB.D`: subtract, double precision (46_fpa_instructions.md R353). -/
def execSubD (ft fs fd : Reg) (s : State) : Result :=
  s.fpaOperation (evenFpr ft && evenFpr fs && evenFpr fd)
    (s.finishDouble fd
      (fpSub s.tinyAfter double s.fcr31.rm (s.readDouble fs) (s.readDouble ft)))

/-- `MUL.S`: multiply, single precision (46_fpa_instructions.md R354). -/
def execMulS (ft fs fd : Reg) (s : State) : Result :=
  s.fpaOperation (evenFpr ft && evenFpr fs && evenFpr fd)
    (s.finishSingle fd
      (fpMul s.tinyAfter single s.fcr31.rm (s.readSingle fs) (s.readSingle ft)))

/-- `MUL.D`: multiply, double precision (46_fpa_instructions.md R354). -/
def execMulD (ft fs fd : Reg) (s : State) : Result :=
  s.fpaOperation (evenFpr ft && evenFpr fs && evenFpr fd)
    (s.finishDouble fd
      (fpMul s.tinyAfter double s.fcr31.rm (s.readDouble fs) (s.readDouble ft)))

/-- `DIV.S`: divide, single precision (46_fpa_instructions.md R355). -/
def execDivS (ft fs fd : Reg) (s : State) : Result :=
  s.fpaOperation (evenFpr ft && evenFpr fs && evenFpr fd)
    (s.finishSingle fd
      (fpDiv s.tinyAfter single s.fcr31.rm (s.readSingle fs) (s.readSingle ft)))

/-- `DIV.D`: divide, double precision (46_fpa_instructions.md R355). -/
def execDivD (ft fs fd : Reg) (s : State) : Result :=
  s.fpaOperation (evenFpr ft && evenFpr fs && evenFpr fd)
    (s.finishDouble fd
      (fpDiv s.tinyAfter double s.fcr31.rm (s.readDouble fs) (s.readDouble ft)))

/-- `ABS.S`: absolute value, single precision (46_fpa_instructions.md R356). -/
def execAbsS (fs fd : Reg) (s : State) : Result :=
  s.fpaOperation (evenFpr fs && evenFpr fd)
    (s.finishSingle fd (fpAbs single (s.readSingle fs)))

/-- `ABS.D`: absolute value, double precision (46_fpa_instructions.md R356). -/
def execAbsD (fs fd : Reg) (s : State) : Result :=
  s.fpaOperation (evenFpr fs && evenFpr fd)
    (s.finishDouble fd (fpAbs double (s.readDouble fs)))

/-- `NEG.S`: negate, single precision (46_fpa_instructions.md R358). -/
def execNegS (fs fd : Reg) (s : State) : Result :=
  s.fpaOperation (evenFpr fs && evenFpr fd)
    (s.finishSingle fd (fpNeg single (s.readSingle fs)))

/-- `NEG.D`: negate, double precision (46_fpa_instructions.md R358). -/
def execNegD (fs fd : Reg) (s : State) : Result :=
  s.fpaOperation (evenFpr fs && evenFpr fd)
    (s.finishDouble fd (fpNeg double (s.readDouble fs)))

/-- `MOV.S`: move, single precision (46_fpa_instructions.md R357). -/
def execMovS (fs fd : Reg) (s : State) : Result :=
  s.fpaOperation (evenFpr fs && evenFpr fd) (s.finishSingle fd (fpMov (s.readSingle fs)))

/-- `MOV.D`: move, double precision (46_fpa_instructions.md R357). -/
def execMovD (fs fd : Reg) (s : State) : Result :=
  s.fpaOperation (evenFpr fs && evenFpr fd) (s.finishDouble fd (fpMov (s.readDouble fs)))

/-- `CVT.S.D`: double to single (46_fpa_instructions.md R360). -/
def execCvtSD (fs fd : Reg) (s : State) : Result :=
  s.fpaOperation (evenFpr fs && evenFpr fd)
    (s.finishSingle fd (fpConvert s.tinyAfter double single s.fcr31.rm (s.readDouble fs)))

/-- `CVT.S.W`: fixed to single (46_fpa_instructions.md R360). -/
def execCvtSW (fs fd : Reg) (s : State) : Result :=
  s.fpaOperation (evenFpr fs && evenFpr fd)
    (s.finishSingle fd (fpOfFixed s.tinyAfter single s.fcr31.rm (s.readSingle fs)))

/-- `CVT.D.S`: single to double (46_fpa_instructions.md R361). -/
def execCvtDS (fs fd : Reg) (s : State) : Result :=
  s.fpaOperation (evenFpr fs && evenFpr fd)
    (s.finishDouble fd (fpConvert s.tinyAfter single double s.fcr31.rm (s.readSingle fs)))

/-- `CVT.D.W`: fixed to double (46_fpa_instructions.md R361). -/
def execCvtDW (fs fd : Reg) (s : State) : Result :=
  s.fpaOperation (evenFpr fs && evenFpr fd)
    (s.finishDouble fd (fpOfFixed s.tinyAfter double s.fcr31.rm (s.readSingle fs)))

/-- `CVT.W.S`: single to fixed (46_fpa_instructions.md R362). -/
def execCvtWS (fs fd : Reg) (s : State) : Result :=
  s.fpaOperation (evenFpr fs && evenFpr fd)
    (s.finishSingle fd (fpToFixed single s.fcr31.rm (s.readSingle fs)))

/-- `CVT.W.D`: double to fixed (46_fpa_instructions.md R362). -/
def execCvtWD (fs fd : Reg) (s : State) : Result :=
  s.fpaOperation (evenFpr fs && evenFpr fd)
    (s.finishSingle fd (fpToFixed double s.fcr31.rm (s.readDouble fs)))

end Sys2Proof.Machine
end

