-- ==== Sys2Proof/Machine/FpaCompare.lean ====
section
/-! DEFINITION. The thirty-two compares of the FPA (46_fpa_instructions.md R364, R365). -/

namespace Sys2Proof.Machine

/-- Compare two singles under a condition (46_fpa_instructions.md R364). -/
def State.compareSingle (s : State) (cond : BitVec 4) (fs ft : Reg) : Result :=
  s.fpaOperation (evenFpr ft && evenFpr fs)
    (s.finishCompare cond
      (relation (single.value (s.readSingle fs)) (single.value (s.readSingle ft))))

/-- Compare two doubles under a condition (46_fpa_instructions.md R364). -/
def State.compareDouble (s : State) (cond : BitVec 4) (fs ft : Reg) : Result :=
  s.fpaOperation (evenFpr ft && evenFpr fs)
    (s.finishCompare cond
      (relation (double.value (s.readDouble fs)) (double.value (s.readDouble ft))))

/-- `C.F.S`: compare, condition 0 (46_fpa_instructions.md R364). -/
def execCFS (ft fs : Reg) (s : State) : Result :=
  s.compareSingle 0x0 fs ft

/-- `C.F.D`: compare, condition 0 (46_fpa_instructions.md R364). -/
def execCFD (ft fs : Reg) (s : State) : Result :=
  s.compareDouble 0x0 fs ft

/-- `C.UN.S`: compare, condition 1 (46_fpa_instructions.md R364). -/
def execCUnS (ft fs : Reg) (s : State) : Result :=
  s.compareSingle 0x1 fs ft

/-- `C.UN.D`: compare, condition 1 (46_fpa_instructions.md R364). -/
def execCUnD (ft fs : Reg) (s : State) : Result :=
  s.compareDouble 0x1 fs ft

/-- `C.EQ.S`: compare, condition 2 (46_fpa_instructions.md R364). -/
def execCEqS (ft fs : Reg) (s : State) : Result :=
  s.compareSingle 0x2 fs ft

/-- `C.EQ.D`: compare, condition 2 (46_fpa_instructions.md R364). -/
def execCEqD (ft fs : Reg) (s : State) : Result :=
  s.compareDouble 0x2 fs ft

/-- `C.UEQ.S`: compare, condition 3 (46_fpa_instructions.md R364). -/
def execCUeqS (ft fs : Reg) (s : State) : Result :=
  s.compareSingle 0x3 fs ft

/-- `C.UEQ.D`: compare, condition 3 (46_fpa_instructions.md R364). -/
def execCUeqD (ft fs : Reg) (s : State) : Result :=
  s.compareDouble 0x3 fs ft

/-- `C.OLT.S`: compare, condition 4 (46_fpa_instructions.md R364). -/
def execCOltS (ft fs : Reg) (s : State) : Result :=
  s.compareSingle 0x4 fs ft

/-- `C.OLT.D`: compare, condition 4 (46_fpa_instructions.md R364). -/
def execCOltD (ft fs : Reg) (s : State) : Result :=
  s.compareDouble 0x4 fs ft

/-- `C.ULT.S`: compare, condition 5 (46_fpa_instructions.md R364). -/
def execCUltS (ft fs : Reg) (s : State) : Result :=
  s.compareSingle 0x5 fs ft

/-- `C.ULT.D`: compare, condition 5 (46_fpa_instructions.md R364). -/
def execCUltD (ft fs : Reg) (s : State) : Result :=
  s.compareDouble 0x5 fs ft

/-- `C.OLE.S`: compare, condition 6 (46_fpa_instructions.md R364). -/
def execCOleS (ft fs : Reg) (s : State) : Result :=
  s.compareSingle 0x6 fs ft

/-- `C.OLE.D`: compare, condition 6 (46_fpa_instructions.md R364). -/
def execCOleD (ft fs : Reg) (s : State) : Result :=
  s.compareDouble 0x6 fs ft

/-- `C.ULE.S`: compare, condition 7 (46_fpa_instructions.md R364). -/
def execCUleS (ft fs : Reg) (s : State) : Result :=
  s.compareSingle 0x7 fs ft

/-- `C.ULE.D`: compare, condition 7 (46_fpa_instructions.md R364). -/
def execCUleD (ft fs : Reg) (s : State) : Result :=
  s.compareDouble 0x7 fs ft

/-- `C.SF.S`: compare, condition 8 (46_fpa_instructions.md R364). -/
def execCSfS (ft fs : Reg) (s : State) : Result :=
  s.compareSingle 0x8 fs ft

/-- `C.SF.D`: compare, condition 8 (46_fpa_instructions.md R364). -/
def execCSfD (ft fs : Reg) (s : State) : Result :=
  s.compareDouble 0x8 fs ft

/-- `C.NGLE.S`: compare, condition 9 (46_fpa_instructions.md R364). -/
def execCNgleS (ft fs : Reg) (s : State) : Result :=
  s.compareSingle 0x9 fs ft

/-- `C.NGLE.D`: compare, condition 9 (46_fpa_instructions.md R364). -/
def execCNgleD (ft fs : Reg) (s : State) : Result :=
  s.compareDouble 0x9 fs ft

/-- `C.SEQ.S`: compare, condition 10 (46_fpa_instructions.md R364). -/
def execCSeqS (ft fs : Reg) (s : State) : Result :=
  s.compareSingle 0xa fs ft

/-- `C.SEQ.D`: compare, condition 10 (46_fpa_instructions.md R364). -/
def execCSeqD (ft fs : Reg) (s : State) : Result :=
  s.compareDouble 0xa fs ft

/-- `C.NGL.S`: compare, condition 11 (46_fpa_instructions.md R364). -/
def execCNglS (ft fs : Reg) (s : State) : Result :=
  s.compareSingle 0xb fs ft

/-- `C.NGL.D`: compare, condition 11 (46_fpa_instructions.md R364). -/
def execCNglD (ft fs : Reg) (s : State) : Result :=
  s.compareDouble 0xb fs ft

/-- `C.LT.S`: compare, condition 12 (46_fpa_instructions.md R364). -/
def execCLtS (ft fs : Reg) (s : State) : Result :=
  s.compareSingle 0xc fs ft

/-- `C.LT.D`: compare, condition 12 (46_fpa_instructions.md R364). -/
def execCLtD (ft fs : Reg) (s : State) : Result :=
  s.compareDouble 0xc fs ft

/-- `C.NGE.S`: compare, condition 13 (46_fpa_instructions.md R364). -/
def execCNgeS (ft fs : Reg) (s : State) : Result :=
  s.compareSingle 0xd fs ft

/-- `C.NGE.D`: compare, condition 13 (46_fpa_instructions.md R364). -/
def execCNgeD (ft fs : Reg) (s : State) : Result :=
  s.compareDouble 0xd fs ft

/-- `C.LE.S`: compare, condition 14 (46_fpa_instructions.md R364). -/
def execCLeS (ft fs : Reg) (s : State) : Result :=
  s.compareSingle 0xe fs ft

/-- `C.LE.D`: compare, condition 14 (46_fpa_instructions.md R364). -/
def execCLeD (ft fs : Reg) (s : State) : Result :=
  s.compareDouble 0xe fs ft

/-- `C.NGT.S`: compare, condition 15 (46_fpa_instructions.md R364). -/
def execCNgtS (ft fs : Reg) (s : State) : Result :=
  s.compareSingle 0xf fs ft

/-- `C.NGT.D`: compare, condition 15 (46_fpa_instructions.md R364). -/
def execCNgtD (ft fs : Reg) (s : State) : Result :=
  s.compareDouble 0xf fs ft

end Sys2Proof.Machine
end

