-- ==== Sys2Proof/Machine/LoadStore.lean ====
section
/-! DEFINITION. The twelve loads and stores of the CPU (40_load_store.md). -/

namespace Sys2Proof.Machine

/-- A load of an aligned datum: the extended datum reaches rt after the next instruction
(40_load_store.md R170, R171, R179). -/
def State.load (s : State) (base rt : Reg) (offset : BitVec 16) (n : Width) (extend : Word → Word) :
    Result :=
  (s.memRead (s.effectiveAddress base offset) n).finish fun w t =>
    .next (t.retire.deferLoad rt (extend w))

/-- A load of part of a word, merged with rt by `merge` from the lane of the addressed byte
(40_load_store.md R177, R178). Right after a load to the same rt it merges with what that load delivered
(R171). Where the base is that register too, R171's refusal does not name the base and its quotation
excepts the target register alone: the base is drawn from its old and its new value like any other
operand in a load delay slot (DESIGN CHOICE, log 7). -/
def State.loadPartial (s : State) (base rt : Reg) (offset : BitVec 16)
    (merge : Nat → Word → Word → Word) : Result :=
  let va := s.effectiveAddress base offset
  (s.memReadLanes va).finish fun w t =>
    .next (t.retire.deferLoad rt (merge (byteLane s.bigEndianData va) (s.readMerged rt) w))

/-- A store of the low part of rt (40_load_store.md R179, R186). -/
def State.store (s : State) (base rt : Reg) (offset : BitVec 16) (n : Width) : Result :=
  (s.memWrite (s.effectiveAddress base offset) n (n.low (s.readReg rt))).finish fun _ t =>
    .next t.retire

/-- A store of some lanes of a word computed from rt (40_load_store.md R183, R184). -/
def State.storePartial (s : State) (base rt : Reg) (offset : BitVec 16) (lanes : Nat → Lanes)
    (shift : Nat → Word → Word) : Result :=
  let va := s.effectiveAddress base offset
  let lane := byteLane s.bigEndianData va
  (s.memWriteLanes va (lanes lane) (shift lane (s.readReg rt))).finish fun _ t => .next t.retire

/-- `LB`: load byte, sign-extended (40_load_store.md R172). -/
def execLb (base rt : Reg) (offset : BitVec 16) (s : State) : Result :=
  s.load base rt offset .byte fun w => (w.extractLsb' 0 8).signExtend 32

/-- `LBU`: load byte, zero-extended (40_load_store.md R173). -/
def execLbu (base rt : Reg) (offset : BitVec 16) (s : State) : Result :=
  s.load base rt offset .byte fun w => w

/-- `LH`: load halfword, sign-extended (40_load_store.md R174). -/
def execLh (base rt : Reg) (offset : BitVec 16) (s : State) : Result :=
  s.load base rt offset .half fun w => (w.extractLsb' 0 16).signExtend 32

/-- `LHU`: load halfword, zero-extended (40_load_store.md R175). -/
def execLhu (base rt : Reg) (offset : BitVec 16) (s : State) : Result :=
  s.load base rt offset .half fun w => w

/-- `LW`: load word (40_load_store.md R176). -/
def execLw (base rt : Reg) (offset : BitVec 16) (s : State) : Result :=
  s.load base rt offset .word fun w => w

/-- `LWL`: load word left (40_load_store.md R177). -/
def execLwl (base rt : Reg) (offset : BitVec 16) (s : State) : Result :=
  s.loadPartial base rt offset mergeLeft

/-- `LWR`: load word right (40_load_store.md R178). -/
def execLwr (base rt : Reg) (offset : BitVec 16) (s : State) : Result :=
  s.loadPartial base rt offset mergeRight

/-- `SB`: store byte (40_load_store.md R180). -/
def execSb (base rt : Reg) (offset : BitVec 16) (s : State) : Result :=
  s.store base rt offset .byte

/-- `SH`: store halfword (40_load_store.md R181). -/
def execSh (base rt : Reg) (offset : BitVec 16) (s : State) : Result :=
  s.store base rt offset .half

/-- `SW`: store word (40_load_store.md R182). -/
def execSw (base rt : Reg) (offset : BitVec 16) (s : State) : Result :=
  s.store base rt offset .word

/-- `SWL`: store word left (40_load_store.md R183). -/
def execSwl (base rt : Reg) (offset : BitVec 16) (s : State) : Result :=
  s.storePartial base rt offset lanesDown fun lane v => v >>> (8 * (3 - lane))

/-- `SWR`: store word right (40_load_store.md R184). -/
def execSwr (base rt : Reg) (offset : BitVec 16) (s : State) : Result :=
  s.storePartial base rt offset lanesUp fun lane v => v <<< (8 * lane)

end Sys2Proof.Machine
end

