-- ==== Sys2Proof/Machine/MulDiv.lean ====
section
/-! DEFINITION. Multiply, divide and the HI/LO moves (41_computational.md R225 to R236). -/

namespace Sys2Proof.Machine

/-- HI and LO take a 64-bit product, at once (41_computational.md R225, R226). -/
def State.setHiLo (s : State) (hi lo : Word) : Result := .next ((s.retire.withHi hi).withLo lo)

/-- A division with no stated result leaves free values in HI and LO (41_computational.md R235;
log 12). -/
def State.setHiLoFree (s : State) : Result := s.setHiLo (s.freeWord .hiValue) (s.freeWord .loValue)

/-- The signed 64-bit product (41_computational.md R226). -/
def productSigned (a b : Word) : BitVec 64 := BitVec.ofInt 64 (a.toInt * b.toInt)

/-- The unsigned 64-bit product (41_computational.md R227). -/
def productUnsigned (a b : Word) : BitVec 64 := BitVec.ofNat 64 (a.toNat * b.toNat)

/-- Signed divisions with no stated result: by zero, and -2^31 by -1 (41_computational.md R228). -/
def divisionOpen (a b : Word) : Bool := b == 0 || (a == 0x80000000 && b == 0xffffffff)

/-- The signed quotient, truncated toward zero (41_computational.md R228). -/
def quotientSigned (a b : Word) : Word := BitVec.ofInt 32 (a.toInt.tdiv b.toInt)

/-- The signed remainder, with the sign of the dividend (41_computational.md R228). -/
def remainderSigned (a b : Word) : Word := BitVec.ofInt 32 (a.toInt.tmod b.toInt)

/-- `MULT`: multiply, signed (41_computational.md R226). -/
def execMult (rs rt : Reg) (s : State) : Result :=
  s.setHiLo ((productSigned (s.readReg rs) (s.readReg rt)).extractLsb' 32 32)
    ((productSigned (s.readReg rs) (s.readReg rt)).extractLsb' 0 32)

/-- `MULTU`: multiply, unsigned (41_computational.md R227). -/
def execMultu (rs rt : Reg) (s : State) : Result :=
  s.setHiLo ((productUnsigned (s.readReg rs) (s.readReg rt)).extractLsb' 32 32)
    ((productUnsigned (s.readReg rs) (s.readReg rt)).extractLsb' 0 32)

/-- `DIV`: divide, signed (41_computational.md R228). -/
def execDiv (rs rt : Reg) (s : State) : Result :=
  if divisionOpen (s.readReg rs) (s.readReg rt) then s.setHiLoFree
  else s.setHiLo (remainderSigned (s.readReg rs) (s.readReg rt))
    (quotientSigned (s.readReg rs) (s.readReg rt))

/-- `DIVU`: divide, unsigned (41_computational.md R229). -/
def execDivu (rs rt : Reg) (s : State) : Result :=
  if s.readReg rt = 0 then s.setHiLoFree
  else s.setHiLo (s.readReg rs % s.readReg rt) (s.readReg rs / s.readReg rt)

/-- `MFHI`: move from HI (41_computational.md R230). -/
def execMfhi (rd : Reg) (s : State) : Result :=
  s.result rd s.hi

/-- `MTHI`: move to HI (41_computational.md R231). -/
def execMthi (rs : Reg) (s : State) : Result :=
  .next (s.retire.withHi (s.readReg rs))

/-- `MFLO`: move from LO (41_computational.md R232). -/
def execMflo (rd : Reg) (s : State) : Result :=
  s.result rd s.lo

/-- `MTLO`: move to LO (41_computational.md R233). -/
def execMtlo (rs : Reg) (s : State) : Result :=
  .next (s.retire.withLo (s.readReg rs))

end Sys2Proof.Machine
end

