-- ==== Sys2Proof/Machine/Special.lean ====
section
/-! DEFINITION. SYSCALL, BREAK and the branches on coprocessor conditions 0, 2 and 3
(43_special_coprocessor.md). -/

namespace Sys2Proof.Machine

/-- A branch of coprocessor `z`: the usability test comes first (43_special_coprocessor.md R263, R270). -/
def State.branchCoprocessor (s : State) (z : BitVec 2) (taken : Bool) (offset : BitVec 16) : Result :=
  if s.usable z then s.transfer (s.branchTo taken offset) else s.raise (.cpu z)

/-- `SYSCALL`: take the Sys exception; the code field is ignored (43_special_coprocessor.md R261). -/
def execSyscall (_code : BitVec 20) (s : State) : Result :=
  s.raise .sys

/-- `BREAK`: take the Bp exception; the code field is ignored (43_special_coprocessor.md R262). -/
def execBrk (_code : BitVec 20) (s : State) : Result :=
  s.raise .bp

/-- `BC0F`: branch if CpCond(0), captured one instruction before, is false (43_special_coprocessor.md R270). -/
def execBc0f (offset : BitVec 16) (s : State) : Result :=
  s.branchCoprocessor 0 (!s.seq.condLatch0) offset

/-- `BC0T`: branch if CpCond(0), captured one instruction before, is true (43_special_coprocessor.md R270). -/
def execBc0t (offset : BitVec 16) (s : State) : Result :=
  s.branchCoprocessor 0 s.seq.condLatch0 offset

/-- `BC2F`: branch if CpCond(2), captured one instruction before, is false (43_special_coprocessor.md R270). -/
def execBc2f (offset : BitVec 16) (s : State) : Result :=
  s.branchCoprocessor 2 (!s.seq.condLatch2) offset

/-- `BC2T`: branch if CpCond(2), captured one instruction before, is true (43_special_coprocessor.md R270). -/
def execBc2t (offset : BitVec 16) (s : State) : Result :=
  s.branchCoprocessor 2 s.seq.condLatch2 offset

/-- `BC3F`: branch if CpCond(3), captured one instruction before, is false (43_special_coprocessor.md R270). -/
def execBc3f (offset : BitVec 16) (s : State) : Result :=
  s.branchCoprocessor 3 (!s.seq.condLatch3) offset

/-- `BC3T`: branch if CpCond(3), captured one instruction before, is true (43_special_coprocessor.md R270). -/
def execBc3t (offset : BitVec 16) (s : State) : Result :=
  s.branchCoprocessor 3 s.seq.condLatch3 offset

end Sys2Proof.Machine
end

