-- ==== Sys2Proof/Machine/System.lean ====
section
/-! DEFINITION. The CP0 instructions: register moves, TLB instructions and RFE (44_cp0_instructions.md). -/

namespace Sys2Proof.Machine

/-! ## Reading (44_cp0_instructions.md R291) -/

/-- Status as MFC0 reads it: outside isolation CM is a free value (20_memory.md R131; log 31). -/
def State.statusRead (s : State) : Word :=
  statusWord { s.cp0.status with
    cm := if s.cp0.status.isc then s.cp0.status.cm else s.freeBit .statusCm }

/-- A TLB register: a free value on base versions (10_state.md R34; log 13). -/
def State.tlbRegister (s : State) (v : Word) : Word :=
  if s.chip.hasTlb then v else s.freeWord .cp0NoTlb

/-- CP0 register `n` as MFC0 reads it; reserved registers are free values (44_cp0_instructions.md R291;
log 13). -/
def State.readCp0 (s : State) (n : Reg) : Word :=
  match n.toNat with
  | 0 => s.tlbRegister (indexWord s.cp0.index)
  | 1 => s.tlbRegister (randomWord s.cp0.random)
  | 2 => s.tlbRegister (entryLoWord s.cp0.entryLo)
  | 3 => configWord s.chip s.cp0.config
  | 4 => contextWord s.cp0.context
  | 8 => s.cp0.badVAddr
  | 10 => s.tlbRegister (entryHiWord s.cp0.entryHi)
  | 12 => s.statusRead
  | 13 => causeWord s.cp0.cause s.interruptLines
  | 14 => s.cp0.epc
  | 15 => prIdWord
  | _ => s.freeWord .cp0Reserved

/-! ## Writing (44_cp0_instructions.md R290) -/

/-- The next instruction is in the window of an MTC0 to a TLB register (70_reset_and_hazards.md R507). -/
def State.openCp0Window (s : State) : State := s.withSeq { s.seq with cp0WriteWindow := true }

/-- Write a TLB register, which exists on E versions only (10_state.md R29 to R31, R34). -/
def State.writeTlbRegister (s : State) (update : State → State) : Result :=
  .next ((if s.chip.hasTlb then update s else s).retire.openCp0Window)

/-- Ten instructions follow in which the old Config fields may still be in force
(70_reset_and_hazards.md R511). -/
def State.openConfigWindow (s : State) (old : ConfigReg) : State :=
  s.withSeq { s.seq with configOld := old, configWindow := 10 }

/-- A change of Config.AC leaves the contents of both caches undefined (20_memory.md R127). -/
def State.afterAcChange (s : State) (changed : Bool) : State :=
  if changed then { s with icache := undefinedCache, dcache := undefinedCache } else s

/-- MTC0 to Config: ignored once locked (10_state.md R54); a reserved FPInt is refused on parts with an
FPA (R57, D38; log 18). -/
def State.writeConfig (s : State) (v : Word) : Result :=
  let new := configOfWord v
  if s.lockInForce then .next s.retire
  else if s.chip.hasFpa && decide (6 ≤ new.fpInt.toNat) then .refused .reservedFpInt
  else
    .next (((s.afterAcChange (new.ac != s.cp0.config.ac)).withConfig new).retire.openConfigWindow
      s.configInForce)

/-- Whether a write of Status changes IsC or SwC (70_reset_and_hazards.md R509). -/
def State.changesCacheControl (s : State) (v : Word) : Bool :=
  (statusOfWrite s.cp0.status v).isc != s.cp0.status.isc ||
    (statusOfWrite s.cp0.status v).swc != s.cp0.status.swc

/-- MTC0 to Status (10_state.md R49); a change of IsC or SwC must be fetched uncached, and so must its
neighbours (70_reset_and_hazards.md R509; log 33). -/
def State.writeStatus (s : State) (v : Word) : Result :=
  let changes := s.changesCacheControl v
  if changes && (s.seq.fetchCached || s.seq.prevFetchCached) then .refused .cacheControlCached
  else
    let t := (s.withStatus (statusOfWrite s.cp0.status v)).retire
    .next (t.withSeq { t.seq with cacheCtlWindow := changes })

/-- MTC0 to CP0 register `n`; the read-only and reserved ones are unaffected (44_cp0_instructions.md
R290, D12). -/
def State.writeCp0 (s : State) (n : Reg) (v : Word) : Result :=
  match n.toNat with
  | 0 => s.writeTlbRegister fun t => t.withIndex (indexOfWord v)
  | 2 => s.writeTlbRegister fun t => t.withEntryLo (entryLoOfWord v)
  | 3 => s.writeConfig v
  | 4 => .next (s.withContext { s.cp0.context with pteBase := v.extractLsb' 21 11 }).retire
  | 10 => s.writeTlbRegister fun t => t.withEntryHi (entryHiOfWord v)
  | 12 => s.writeStatus v
  | 13 => .next (s.withCause { s.cp0.cause with sw := v.extractLsb' 8 2 }).retire
  | _ => .next s.retire

/-! ## Guards -/

/-- The usability test of CP0 (44_cp0_instructions.md R296). -/
def State.cp0Instruction (s : State) (k : Result) : Result :=
  if s.usable 0 then k else s.raise (.cpu 0)

/-- The tests of a TLB instruction: usable, a TLB present, no MTC0 to a TLB register just before
(44_cp0_instructions.md R298, 70_reset_and_hazards.md R507; log 21). -/
def State.tlbInstruction (s : State) (k : Result) : Result :=
  s.cp0Instruction <|
    if !s.chip.hasTlb then .refused .tlbAbsent
    else if s.seq.cp0WriteWindow then .refused .cp0WriteWindow
    else k

/-- Index after a probe; with no match only P is defined (44_cp0_instructions.md R295; log 21). -/
def State.probe (s : State) : Result :=
  match s.tlbMatches s.cp0.entryHi.vpn with
  | [] => .next (s.withIndex { p := true, index := (s.freeWord .probeIndex).extractLsb' 0 6 }).retire
  | [i] => .next (s.withIndex { p := false, index := i }).retire
  | _ => .refused .tlbMultipleMatch

/-- The entry EntryHi and EntryLo make (44_cp0_instructions.md R293). -/
def State.newTlbEntry (s : State) : TlbEntry := { hi := s.cp0.entryHi, lo := s.cp0.entryLo }

/-! ## The instructions -/

/-- `MFC0`: move from CP0, delivered like a load (44_cp0_instructions.md R291). -/
def execMfc0 (rt rd : Reg) (s : State) : Result :=
  s.cp0Instruction (.next (s.retire.deferLoad rt (s.readCp0 rd)))

/-- `MTC0`: move to CP0 (44_cp0_instructions.md R290). -/
def execMtc0 (rt rd : Reg) (s : State) : Result :=
  s.cp0Instruction (s.writeCp0 rd (s.readReg rt))

/-- `TLBR`: read the indexed TLB entry (44_cp0_instructions.md R292). -/
def execTlbr (s : State) : Result :=
  s.tlbInstruction
    (.next ((s.withEntryHi (s.tlbEntry s.cp0.index.index).hi).withEntryLo
      (s.tlbEntry s.cp0.index.index).lo).retire)

/-- `TLBWI`: write the indexed TLB entry (44_cp0_instructions.md R293). -/
def execTlbwi (s : State) : Result :=
  s.tlbInstruction (.next (s.writeTlb s.cp0.index.index s.newTlbEntry).retire)

/-- `TLBWR`: write the TLB entry Random selects (44_cp0_instructions.md R294). -/
def execTlbwr (s : State) : Result :=
  s.tlbInstruction (.next (s.writeTlb s.cp0.random s.newTlbEntry).retire)

/-- `TLBP`: probe the TLB for EntryHi (44_cp0_instructions.md R295). -/
def execTlbp (s : State) : Result :=
  s.tlbInstruction s.probe

/-- `RFE`: restore the KU/IE stack (44_cp0_instructions.md R297). -/
def execRfe (s : State) : Result :=
  s.cp0Instruction (.next s.returnFromException.retire)

end Sys2Proof.Machine
end

