-- ==== Sys2Proof/Machine/Dispatch.lean ====
section
/-! DEFINITION. The dispatcher: one arm per constructor of `Instr`, one meaning per arm. -/

namespace Sys2Proof.Machine

/-- Execute one instruction. -/
def exec (i : Instr) (s : State) : Host.Outcome State Fault Refusal :=
  match i with
  | .lb base rt offset => Sys2Proof.Machine.execLb base rt offset s
  | .lh base rt offset => Sys2Proof.Machine.execLh base rt offset s
  | .lwl base rt offset => Sys2Proof.Machine.execLwl base rt offset s
  | .lw base rt offset => Sys2Proof.Machine.execLw base rt offset s
  | .lbu base rt offset => Sys2Proof.Machine.execLbu base rt offset s
  | .lhu base rt offset => Sys2Proof.Machine.execLhu base rt offset s
  | .lwr base rt offset => Sys2Proof.Machine.execLwr base rt offset s
  | .sb base rt offset => Sys2Proof.Machine.execSb base rt offset s
  | .sh base rt offset => Sys2Proof.Machine.execSh base rt offset s
  | .swl base rt offset => Sys2Proof.Machine.execSwl base rt offset s
  | .sw base rt offset => Sys2Proof.Machine.execSw base rt offset s
  | .swr base rt offset => Sys2Proof.Machine.execSwr base rt offset s
  | .addi rs rt imm => Sys2Proof.Machine.execAddi rs rt imm s
  | .addiu rs rt imm => Sys2Proof.Machine.execAddiu rs rt imm s
  | .slti rs rt imm => Sys2Proof.Machine.execSlti rs rt imm s
  | .sltiu rs rt imm => Sys2Proof.Machine.execSltiu rs rt imm s
  | .andi rs rt imm => Sys2Proof.Machine.execAndi rs rt imm s
  | .ori rs rt imm => Sys2Proof.Machine.execOri rs rt imm s
  | .xori rs rt imm => Sys2Proof.Machine.execXori rs rt imm s
  | .lui rt imm => Sys2Proof.Machine.execLui rt imm s
  | .add rs rt rd => Sys2Proof.Machine.execAdd rs rt rd s
  | .addu rs rt rd => Sys2Proof.Machine.execAddu rs rt rd s
  | .sub rs rt rd => Sys2Proof.Machine.execSub rs rt rd s
  | .subu rs rt rd => Sys2Proof.Machine.execSubu rs rt rd s
  | .and rs rt rd => Sys2Proof.Machine.execAnd rs rt rd s
  | .or rs rt rd => Sys2Proof.Machine.execOr rs rt rd s
  | .xor rs rt rd => Sys2Proof.Machine.execXor rs rt rd s
  | .nor rs rt rd => Sys2Proof.Machine.execNor rs rt rd s
  | .slt rs rt rd => Sys2Proof.Machine.execSlt rs rt rd s
  | .sltu rs rt rd => Sys2Proof.Machine.execSltu rs rt rd s
  | .sll rt rd shamt => Sys2Proof.Machine.execSll rt rd shamt s
  | .srl rt rd shamt => Sys2Proof.Machine.execSrl rt rd shamt s
  | .sra rt rd shamt => Sys2Proof.Machine.execSra rt rd shamt s
  | .sllv rs rt rd => Sys2Proof.Machine.execSllv rs rt rd s
  | .srlv rs rt rd => Sys2Proof.Machine.execSrlv rs rt rd s
  | .srav rs rt rd => Sys2Proof.Machine.execSrav rs rt rd s
  | .mult rs rt => Sys2Proof.Machine.execMult rs rt s
  | .multu rs rt => Sys2Proof.Machine.execMultu rs rt s
  | .div rs rt => Sys2Proof.Machine.execDiv rs rt s
  | .divu rs rt => Sys2Proof.Machine.execDivu rs rt s
  | .mfhi rd => Sys2Proof.Machine.execMfhi rd s
  | .mthi rs => Sys2Proof.Machine.execMthi rs s
  | .mflo rd => Sys2Proof.Machine.execMflo rd s
  | .mtlo rs => Sys2Proof.Machine.execMtlo rs s
  | .j target => Sys2Proof.Machine.execJ target s
  | .jal target => Sys2Proof.Machine.execJal target s
  | .jr rs => Sys2Proof.Machine.execJr rs s
  | .jalr rs rd => Sys2Proof.Machine.execJalr rs rd s
  | .beq rs rt offset => Sys2Proof.Machine.execBeq rs rt offset s
  | .bne rs rt offset => Sys2Proof.Machine.execBne rs rt offset s
  | .blez rs offset => Sys2Proof.Machine.execBlez rs offset s
  | .bgtz rs offset => Sys2Proof.Machine.execBgtz rs offset s
  | .bltz rs offset => Sys2Proof.Machine.execBltz rs offset s
  | .bgez rs offset => Sys2Proof.Machine.execBgez rs offset s
  | .bltzal rs offset => Sys2Proof.Machine.execBltzal rs offset s
  | .bgezal rs offset => Sys2Proof.Machine.execBgezal rs offset s
  | .syscall code => Sys2Proof.Machine.execSyscall code s
  | .brk code => Sys2Proof.Machine.execBrk code s
  | .mfc0 rt rd => Sys2Proof.Machine.execMfc0 rt rd s
  | .mtc0 rt rd => Sys2Proof.Machine.execMtc0 rt rd s
  | .tlbr => Sys2Proof.Machine.execTlbr s
  | .tlbwi => Sys2Proof.Machine.execTlbwi s
  | .tlbwr => Sys2Proof.Machine.execTlbwr s
  | .tlbp => Sys2Proof.Machine.execTlbp s
  | .rfe => Sys2Proof.Machine.execRfe s
  | .bc0f offset => Sys2Proof.Machine.execBc0f offset s
  | .bc0t offset => Sys2Proof.Machine.execBc0t offset s
  | .bc2f offset => Sys2Proof.Machine.execBc2f offset s
  | .bc2t offset => Sys2Proof.Machine.execBc2t offset s
  | .bc3f offset => Sys2Proof.Machine.execBc3f offset s
  | .bc3t offset => Sys2Proof.Machine.execBc3t offset s
  | .lwc1 base ft offset => Sys2Proof.Machine.execLwc1 base ft offset s
  | .swc1 base ft offset => Sys2Proof.Machine.execSwc1 base ft offset s
  | .mfc1 rt fs => Sys2Proof.Machine.execMfc1 rt fs s
  | .cfc1 rt fs => Sys2Proof.Machine.execCfc1 rt fs s
  | .mtc1 rt fs => Sys2Proof.Machine.execMtc1 rt fs s
  | .ctc1 rt fs => Sys2Proof.Machine.execCtc1 rt fs s
  | .bc1f offset => Sys2Proof.Machine.execBc1f offset s
  | .bc1t offset => Sys2Proof.Machine.execBc1t offset s
  | .addS ft fs fd => Sys2Proof.Machine.execAddS ft fs fd s
  | .addD ft fs fd => Sys2Proof.Machine.execAddD ft fs fd s
  | .subS ft fs fd => Sys2Proof.Machine.execSubS ft fs fd s
  | .subD ft fs fd => Sys2Proof.Machine.execSubD ft fs fd s
  | .mulS ft fs fd => Sys2Proof.Machine.execMulS ft fs fd s
  | .mulD ft fs fd => Sys2Proof.Machine.execMulD ft fs fd s
  | .divS ft fs fd => Sys2Proof.Machine.execDivS ft fs fd s
  | .divD ft fs fd => Sys2Proof.Machine.execDivD ft fs fd s
  | .absS fs fd => Sys2Proof.Machine.execAbsS fs fd s
  | .absD fs fd => Sys2Proof.Machine.execAbsD fs fd s
  | .movS fs fd => Sys2Proof.Machine.execMovS fs fd s
  | .movD fs fd => Sys2Proof.Machine.execMovD fs fd s
  | .negS fs fd => Sys2Proof.Machine.execNegS fs fd s
  | .negD fs fd => Sys2Proof.Machine.execNegD fs fd s
  | .cvtSD fs fd => Sys2Proof.Machine.execCvtSD fs fd s
  | .cvtSW fs fd => Sys2Proof.Machine.execCvtSW fs fd s
  | .cvtDS fs fd => Sys2Proof.Machine.execCvtDS fs fd s
  | .cvtDW fs fd => Sys2Proof.Machine.execCvtDW fs fd s
  | .cvtWS fs fd => Sys2Proof.Machine.execCvtWS fs fd s
  | .cvtWD fs fd => Sys2Proof.Machine.execCvtWD fs fd s
  | .cFS ft fs => Sys2Proof.Machine.execCFS ft fs s
  | .cFD ft fs => Sys2Proof.Machine.execCFD ft fs s
  | .cUnS ft fs => Sys2Proof.Machine.execCUnS ft fs s
  | .cUnD ft fs => Sys2Proof.Machine.execCUnD ft fs s
  | .cEqS ft fs => Sys2Proof.Machine.execCEqS ft fs s
  | .cEqD ft fs => Sys2Proof.Machine.execCEqD ft fs s
  | .cUeqS ft fs => Sys2Proof.Machine.execCUeqS ft fs s
  | .cUeqD ft fs => Sys2Proof.Machine.execCUeqD ft fs s
  | .cOltS ft fs => Sys2Proof.Machine.execCOltS ft fs s
  | .cOltD ft fs => Sys2Proof.Machine.execCOltD ft fs s
  | .cUltS ft fs => Sys2Proof.Machine.execCUltS ft fs s
  | .cUltD ft fs => Sys2Proof.Machine.execCUltD ft fs s
  | .cOleS ft fs => Sys2Proof.Machine.execCOleS ft fs s
  | .cOleD ft fs => Sys2Proof.Machine.execCOleD ft fs s
  | .cUleS ft fs => Sys2Proof.Machine.execCUleS ft fs s
  | .cUleD ft fs => Sys2Proof.Machine.execCUleD ft fs s
  | .cSfS ft fs => Sys2Proof.Machine.execCSfS ft fs s
  | .cSfD ft fs => Sys2Proof.Machine.execCSfD ft fs s
  | .cNgleS ft fs => Sys2Proof.Machine.execCNgleS ft fs s
  | .cNgleD ft fs => Sys2Proof.Machine.execCNgleD ft fs s
  | .cSeqS ft fs => Sys2Proof.Machine.execCSeqS ft fs s
  | .cSeqD ft fs => Sys2Proof.Machine.execCSeqD ft fs s
  | .cNglS ft fs => Sys2Proof.Machine.execCNglS ft fs s
  | .cNglD ft fs => Sys2Proof.Machine.execCNglD ft fs s
  | .cLtS ft fs => Sys2Proof.Machine.execCLtS ft fs s
  | .cLtD ft fs => Sys2Proof.Machine.execCLtD ft fs s
  | .cNgeS ft fs => Sys2Proof.Machine.execCNgeS ft fs s
  | .cNgeD ft fs => Sys2Proof.Machine.execCNgeD ft fs s
  | .cLeS ft fs => Sys2Proof.Machine.execCLeS ft fs s
  | .cLeD ft fs => Sys2Proof.Machine.execCLeD ft fs s
  | .cNgtS ft fs => Sys2Proof.Machine.execCNgtS ft fs s
  | .cNgtD ft fs => Sys2Proof.Machine.execCNgtD ft fs s

end Sys2Proof.Machine
end

