-- ==== Sys2Proof/Machine/Issue.lean ====
section
/-! DEFINITION. What a step does before an instruction runs: inputs, reset, the bus, the Halt stall,
interrupts, fetch and decode (00_scope.md R12, 60_exceptions.md R432). -/

namespace Sys2Proof.Machine

/-! ## Inputs -/

/-- With no scripted input the pins stay as they are, the bus retires every pending write, and memory
answers reads (log 5). -/
def BusInput.idle (b : BusInput) : BusInput :=
  { b with
    events := List.replicate writeBufferDepth (.bus (.write .stored))
    reset := none
    fetchReply := .memory
    dataEvents := []
    dataReply := .memory }

/-- Sample the inputs of this step (00_scope.md R12 (1), 60_exceptions.md R441). -/
def State.sample (s : State) : State :=
  match s.inputs with
  | [] => { s with env := s.env.idle }
  | i :: rest => { s with env := i, inputs := rest }

/-! ## Reset (70_reset_and_hazards.md R482) -/

/-- The reset transition with the mode vector latched at its end; memory is not touched (R482), the
write buffer is empty, everything R78 leaves undefined takes the value of `State.reset` (log 42). The
condition latches hold the pins sampled in this step: R270 and R482 do not say what the first
instruction sees (DESIGN CHOICE, log 53). -/
def State.reboot (s : State) (m : ModeVector) : State :=
  let r := State.resetOf s.chip m
  { r with
    mem := s.mem
    env := s.env
    inputs := s.inputs
    seq := { r.seq with
      condLatch0 := s.env.brCond0, condLatch2 := s.env.brCond2, condLatch3 := s.env.brCond3,
      draws := s.seq.draws + 1 } }

/-! ## The bus between instructions (71_bus_interface.md R560 to R563) -/

/-- The data-cache entry a captured address selects becomes invalid; its tag is not compared
(71_bus_interface.md R563). A mark of possibly bad parity stays: R563 and 20_memory.md R132 do not say
(DESIGN CHOICE, log 31). -/
def State.dmaInvalidate (s : State) (w : WordAddr) : State :=
  let suspect := match s.dcache.tagAt (tagIndex .data s.acInForce w) with
    | some t => t.suspect
    | none => false
  s.invalidateWord .data w suspect

/-- One word written by a bus master (71_bus_interface.md R560). -/
def State.dmaStore (s : State) (d : DmaWrite) : State :=
  { s with mem := Memory.writeLanes s.mem d.addr d.lanes d.data }

/-- One word written under a coherent grant (71_bus_interface.md R563; log 37). -/
def State.dmaCoherent (s : State) (d : DmaWrite) : Except Refusal State :=
  if d.invalidate then
    if s.cp0.status.swc then .error .coherentInvalidateSwapped
    else .ok ((s.dmaStore d).dmaInvalidate d.addr)
  else .ok (s.dmaStore d)

/-- One bus event. While a write that is never acknowledged holds the bus, no other write goes out and no
master is granted the bus (71_bus_interface.md R548, R560). -/
def State.busEvent (s : State) (e : BusEvent) : State :=
  if s.seq.busBlocked then s
  else match e with
  | .write reply => s.sendWrite reply
  | .dma writes => writes.foldl State.dmaStore s

/-- A grant with CohReq, when the option was selected at reset: first the read buffer goes to the cache
and the pending writes to memory (71_bus_interface.md R562); otherwise an ordinary one (R565). -/
def State.coherentGrant (s : State) (writes : List DmaWrite) : Except Refusal State :=
  if s.seq.busBlocked then .ok s
  else if s.mode.coherentDmaEn then writes.foldlM State.dmaCoherent s.drainReadBuffer.drain
  else .ok (s.busEvent (.dma writes))

/-- One event of the bus between two instructions. -/
def State.boundaryEvent (s : State) (e : BoundaryEvent) : Except Refusal State :=
  match e with
  | .bus e => .ok (s.busEvent e)
  | .coherentDma writes => s.coherentGrant writes

/-- The bus events before this instruction, in order. -/
def State.serveBus (s : State) : Except Refusal State := s.env.events.foldlM State.boundaryEvent s

/-- The bus events between the fetch of this instruction and its data access, in order
(71_bus_interface.md R560). -/
def State.serveData (s : State) : State := s.env.dataEvents.foldl State.busEvent s

/-! ## Halt (60_exceptions.md R472) -/

/-- The core is stalled, or Config.Halt takes effect now. -/
def State.halting (s : State) : Bool := s.seq.halted || s.haltInForce

/-- Waking clears Config.Halt (60_exceptions.md R472, D36; log 17). -/
def State.wake (s : State) : State :=
  let t := s.withConfig { s.cp0.config with halt := false }
  t.withSeq { t.seq with halted := false, configOld := { t.seq.configOld with halt := false } }

/-- The Halt stall goes on (60_exceptions.md R472). -/
def State.halt (s : State) : State :=
  let t := s.stall
  t.withSeq { t.seq with halted := true }

/-! ## Interrupts (60_exceptions.md R432 item 2) -/

/-- A data access of an instruction: its kind, address operands and width (LWL, LWR, SWL and SWR have
no alignment, like a byte). -/
structure DataAccess where
  kind : AccessKind
  base : Reg
  offset : BitVec 16
  width : Width
  ofFpa : Bool
deriving DecidableEq, Repr

/-- The data access of a load or store (40_load_store.md, 46_fpa_instructions.md R345, R346). -/
def dataAccess : Instr → Option DataAccess
  | .lb base _ offset => some ⟨.load, base, offset, .byte, false⟩
  | .lbu base _ offset => some ⟨.load, base, offset, .byte, false⟩
  | .lh base _ offset => some ⟨.load, base, offset, .half, false⟩
  | .lhu base _ offset => some ⟨.load, base, offset, .half, false⟩
  | .lw base _ offset => some ⟨.load, base, offset, .word, false⟩
  | .lwl base _ offset => some ⟨.load, base, offset, .byte, false⟩
  | .lwr base _ offset => some ⟨.load, base, offset, .byte, false⟩
  | .sb base _ offset => some ⟨.store, base, offset, .byte, false⟩
  | .sh base _ offset => some ⟨.store, base, offset, .half, false⟩
  | .sw base _ offset => some ⟨.store, base, offset, .word, false⟩
  | .swl base _ offset => some ⟨.store, base, offset, .byte, false⟩
  | .swr base _ offset => some ⟨.store, base, offset, .byte, false⟩
  | .lwc1 base _ offset => some ⟨.load, base, offset, .word, true⟩
  | .swc1 base _ offset => some ⟨.store, base, offset, .word, true⟩
  | _ => none

/-- Whether an access would raise AdEL, AdES, TLBL, TLBS, Mod or DBE (20_memory.md R98). -/
def State.accessFaults (s : State) (a : DataAccess) : Bool :=
  let va := s.effectiveAddress a.base a.offset
  match s.address va a.kind (a.width.aligned va) with
  | .exc _ _ => true
  | .ok p t =>
    match a.kind with
    | .load =>
      match t.loadWord (wordAddress p.1) p.2 with
      | .exc _ _ => true
      | _ => false
    | _ => false
  | _ => false

/-- Whether an instruction's data access would raise an exception; a CP1 access that is unusable, or on
a part with no FPA, makes none (60_exceptions.md R432). -/
def State.instrFaults (s : State) (i : Instr) : Bool :=
  match dataAccess i with
  | none => false
  | some a => (!a.ofFpa || (s.usable 1 && s.chip.hasFpa)) && s.accessFaults a

/-- Whether the instruction at pc is a load or store whose data access would raise an exception, found
out without side effects (60_exceptions.md R432 item 2, D37; log 30). -/
def State.dataExceptionAtPc (s : State) : Bool :=
  match s.fetchWord with
  | .ok w t =>
    match decode w with
    | .ok i => t.serveData.instrFaults i
    | .error _ => false
  | _ => false

/-- The Int exception is taken instead of the instruction at pc (60_exceptions.md R432 item 2, R440). -/
def State.takesInterrupt (s : State) : Bool := s.interruptCondition && !s.dataExceptionAtPc

/-! ## Words that are no instruction (30_encoding.md R160, R161) -/

/-- What the machine does with a word that is no instruction of the table: RI; a refusal; for coprocessor
words CpU first; Unimplemented Operation for reserved FPA operations (30_encoding.md R160). -/
def State.undefinedWord (s : State) (e : DecodeError) : Result :=
  match e with
  | .reservedInstruction => s.raise .ri
  | .undefinedBcond => .refused .undefinedBcond
  | .undefinedCoprocessorOp z =>
    if !s.usable z then s.raise (.cpu z)
    else if z == 1 && !s.chip.hasFpa then .refused .noFpa
    else .refused (.undefinedCoprocessorOp z)
  | .reservedFpaOp => s.fpaInstruction (s.fpTrap fpE)

/-! ## Issue -/

/-- What a step comes to before an instruction runs: it is done, or an instruction runs. -/
inductive Issue where
  | done (o : Result)
  | run (i : Instr) (s : State)

/-- Fetch and decode the instruction at pc; it then runs, after what the bus does meanwhile
(00_scope.md R12 (3), (4); 71_bus_interface.md R560). -/
def State.fetchDecode (s : State) : Issue :=
  match s.fetchWord with
  | .ok w t =>
    match decode w with
    | .ok i => .run i t.serveData
    | .error e => .done (t.undefinedWord e)
  | .exc x t => .done (t.raise x)
  | .never t => .done (.next t.waitForBus)
  | .refused r => .done (.refused r)

/-- The running core: an interrupt, or the instruction at pc (00_scope.md R12 (2), (3)). -/
def State.issueRunning (s : State) : Issue :=
  if s.takesInterrupt then .done (s.raise .int) else s.fetchDecode

/-- After the bus events: the Halt stall, its end, or the running core. -/
def State.issueServed (s : State) : Issue :=
  if s.halting then
    if s.interruptLines = 0 then .done (.next s.halt) else s.wake.issueRunning
  else s.issueRunning

/-- The core makes no step until the next reset: Tri-State (70_reset_and_hazards.md R485), or a bus
transaction that never ends (93_implementation_defined.md U21, U23). -/
def State.stuck (s : State) : Bool := s.mode.triState || s.seq.waiting

/-- After sampling: reset first (60_exceptions.md R432 item 1), then a stuck core, then the bus. -/
def State.issueSampled (s : State) : Issue :=
  match s.env.reset with
  | some m => .done (.next (s.reboot m))
  | none =>
    if s.stuck then .done (.next s.stall)
    else match s.serveBus with
      | .ok t => t.issueServed
      | .error r => .done (.refused r)

/-- One step up to the instruction (00_scope.md R12). -/
def State.issue (s : State) : Issue := s.sample.issueSampled

/-! ## Placing an instruction -/

/-- Put a word where the next fetch reads it: memory at the translated pc, with pending stores written
first and any cached copy invalid (log 44). -/
def State.placeFetchWord (s : State) (w : Word) : State :=
  match s.address s.pc .fetch true with
  | .ok p _ =>
    let t := s.drain
    let u := { t with mem := Memory.writeLanes t.mem (wordAddress p.1) allLanes w }
    if p.2 then u.invalidateWord u.fetchSide (wordAddress p.1) false else u
  | .exc _ _ => s
  | .never _ => s
  | .refused _ => s

end Sys2Proof.Machine
end

