-- ==== Sys2Proof/Machine/Step.lean ====
section
/-! DEFINITION. One step of the machine, and placing an instruction where it fetches next. -/

namespace Sys2Proof.Machine

/-- One step: inputs, reset, bus, interrupts, fetch and decode (`State.issue`), then the instruction
(00_scope.md R12). -/
def step (s : State) : Host.Outcome State Fault Refusal :=
  match s.issue with
  | .done o => o
  | .run i t => exec i t

/-- `s` with an instruction of `nbits` bits, numbered as the opcode table numbers them, where the next
step fetches (log 44). -/
def State.withFetchWord (s : State) (nbits w : Nat) : State :=
  s.placeFetchWord (BitVec.ofNat 32 (w % 2 ^ nbits))

end Sys2Proof.Machine
end

