-- ==== Sys2Proof/Safety.lean ====
section
/-! DEFINITION. The terms claims are stated in: the invariant of the machine, what an instruction keeps,
and the shapes of outcome the instructions have. -/

namespace Sys2Proof.Machine

/-! ## The invariant -/

/-- What every step keeps: memory in canonical form (20_memory.md R80), at most four stores waiting in the
write buffer (R120; 71_bus_interface.md R551), Random in 8..63 (10_state.md R33), TS frozen at 1 on base versions (R41), no reserved FPInt on a
part with an FPA (R57), no pending load of r0 (40_load_store.md R185), a Config window of at most ten
instructions (70_reset_and_hazards.md R511), and a read buffer whose words have all gone to the cache
(10_state.md R73). -/
structure Inv (s : State) : Prop where
  memory : Memory.wf s.mem = true
  writeBuffer : s.waitingStores.length ≤ writeBufferDepth
  random : 8 ≤ s.cp0.random.toNat
  baseTs : s.chip.hasTlb = false → s.cp0.status.ts = true
  fpInt : s.chip.hasFpa = true → s.cp0.config.fpInt.toNat < 6 ∧ s.seq.configOld.fpInt.toNat < 6
  pending : ∀ r v, s.seq.loadPending = some (r, v) → r ≠ 0
  window : s.seq.configWindow ≤ 10
  readBuffer : s.readBuffer = []

/-! ## What an instruction keeps -/

/-- What FGR `r` holds once a pending LWC1 or MTC1 is delivered (46_fpa_instructions.md R367 a). -/
def State.deliveredFgr (s : State) (r : Reg) : Word :=
  match s.seq.fpLoadPending with
  | some (p, v) => if p = r then v else s.fgrValue r
  | none => s.fgrValue r

/-- Every general register keeps its value, a pending load delivered (40_load_store.md R171). -/
def KeepsGpr (s t : State) : Prop := ∀ r, t.gprValue r = s.readMerged r

/-- HI and LO are unchanged. -/
def KeepsHiLo (s t : State) : Prop := t.hi = s.hi ∧ t.lo = s.lo

/-- The FPA is unchanged, a pending LWC1 or MTC1 delivered. -/
def KeepsFpa (s t : State) : Prop :=
  t.fcr31 = s.fcr31 ∧ t.fpaHeld = s.fpaHeld ∧ ∀ r, t.fgrValue r = s.deliveredFgr r

/-- The part, its mode, CP0 apart from the Random counter, and the TLB are unchanged. -/
def KeepsSystem (s t : State) : Prop :=
  t.chip = s.chip ∧ t.mode = s.mode ∧ t.cp0 = { s.cp0 with random := t.cp0.random } ∧ t.tlb = s.tlb

/-- Every byte of memory reads as before, pending stores included. -/
def KeepsMemory (s t : State) : Prop := ∀ a, t.memoryByte a = s.memoryByte a

/-- Both caches are unchanged. -/
def KeepsCaches (s t : State) : Prop := t.icache = s.icache ∧ t.dcache = s.dcache

/-- Execution goes on at the next address, outside any delay slot (42_jump_branch.md R240). -/
def Continues (s t : State) : Prop :=
  t.pc = s.nextPc ∧ t.nextPc = s.nextPc + 4 ∧ t.seq.inDelaySlot = false

/-- No load is pending. -/
def NoPendingLoad (t : State) : Prop := t.seq.loadPending = none

/-- No FPA load is pending. -/
def NoPendingFpLoad (t : State) : Prop := t.seq.fpLoadPending = none

/-! ## Shapes of outcome -/

/-- The instruction completes: `rd` holds `v` (r0 stays zero) and nothing else changes. -/
def RegisterResult (s : State) (rd : Reg) (v : Word) (o : Result) : Prop :=
  ∃ t, o = .next t ∧
    (∀ r, t.gprValue r = if r = rd ∧ r ≠ 0 then v else s.readMerged r) ∧
    KeepsHiLo s t ∧ KeepsFpa s t ∧ KeepsSystem s t ∧ KeepsMemory s t ∧ KeepsCaches s t ∧
    Continues s t ∧ NoPendingLoad t ∧ NoPendingFpLoad t

/-- The instruction completes with HI and LO set; nothing else changes. -/
def HiLoResult (s : State) (hi lo : Word) (o : Result) : Prop :=
  ∃ t, o = .next t ∧ t.hi = hi ∧ t.lo = lo ∧ KeepsGpr s t ∧ KeepsFpa s t ∧ KeepsSystem s t ∧
    KeepsMemory s t ∧ KeepsCaches s t ∧ Continues s t ∧ NoPendingLoad t ∧ NoPendingFpLoad t

/-- The instruction completes and changes no register, no memory, no cache: `touch` says what it does
to CP0 and the TLB. -/
def SystemResult (s : State) (touch : State → Prop) (o : Result) : Prop :=
  ∃ t, o = .next t ∧ touch t ∧ t.chip = s.chip ∧ t.mode = s.mode ∧ KeepsGpr s t ∧ KeepsHiLo s t ∧
    KeepsFpa s t ∧ KeepsMemory s t ∧ Continues s t ∧ NoPendingLoad t ∧ NoPendingFpLoad t

/-- A jump or branch completes: the delay slot is next, then `target` if there is one; general registers
are as `regs` says, nothing else changes (42_jump_branch.md R240). -/
def TransferResult (s : State) (target : Option Word) (regs : Reg → Word) (o : Result) : Prop :=
  ∃ t, o = .next t ∧ t.pc = s.nextPc ∧
    t.nextPc = (match target with | some a => a | none => s.nextPc + 4) ∧
    t.seq.inDelaySlot = true ∧ (∀ r, t.gprValue r = regs r) ∧
    KeepsHiLo s t ∧ KeepsFpa s t ∧ KeepsSystem s t ∧ KeepsMemory s t ∧ KeepsCaches s t ∧
    NoPendingLoad t ∧ NoPendingFpLoad t

/-- A load, MFC0, MFC1 or CFC1 completes: `v` is pending for `rt` (nothing for r0), to be delivered when
the next instruction completes; nothing else changes (40_load_store.md R171, R185). -/
def DeferredResult (s : State) (rt : Reg) (v : Word) (o : Result) : Prop :=
  ∃ t, o = .next t ∧ t.seq.loadPending = (if rt = 0 then none else some (rt, v)) ∧ KeepsGpr s t ∧
    KeepsHiLo s t ∧ KeepsFpa s t ∧ KeepsSystem s t ∧ KeepsMemory s t ∧ KeepsCaches s t ∧
    Continues s t ∧ NoPendingFpLoad t

/-- LWC1 or MTC1 completes: `v` is pending for FGR `r` (46_fpa_instructions.md R367 a). -/
def DeferredFpResult (s : State) (r : Reg) (v : Word) (o : Result) : Prop :=
  ∃ t, o = .next t ∧ t.seq.fpLoadPending = some (r, v) ∧ KeepsGpr s t ∧ KeepsHiLo s t ∧
    KeepsFpa s t ∧ KeepsSystem s t ∧ KeepsMemory s t ∧ KeepsCaches s t ∧ Continues s t ∧
    NoPendingLoad t

/-- Memory after some lanes of one word are stored: those bytes hold the data's bytes, every other byte
reads as before. -/
def StoresLanes (s t : State) (w : WordAddr) (lanes : Lanes) (data : Word) : Prop :=
  (∀ k, k < 4 → lanes.getLsbD k = true →
    t.memoryByte (laneAddress s.mode.bigEndian w k) = data.extractLsb' (8 * k) 8) ∧
  (∀ a, (∀ k, k < 4 → lanes.getLsbD k = true → a ≠ laneAddress s.mode.bigEndian w k) →
    t.memoryByte a = s.memoryByte a)

/-- An uncached store completes: the lanes are stored, no register changes, no cache changes. -/
def StoreResult (s : State) (w : WordAddr) (lanes : Lanes) (data : Word) (o : Result) : Prop :=
  ∃ t, o = .next t ∧ StoresLanes s t w lanes data ∧ KeepsGpr s t ∧ KeepsHiLo s t ∧ KeepsFpa s t ∧
    KeepsSystem s t ∧ KeepsCaches s t ∧ Continues s t ∧ NoPendingLoad t ∧ NoPendingFpLoad t

/-- Exception entry (60_exceptions.md R420 to R422): where execution goes, what EPC, Cause and Status
become, and that registers, memory, caches and the TLB are untouched. -/
def EntersException (s : State) (x : Exc) (o : Result) : Prop :=
  ∃ t, o = .next t ∧
    t.pc = exceptionVector x s.cp0.status.bev ∧ t.nextPc = t.pc + 4 ∧ t.seq.inDelaySlot = false ∧
    t.cp0.epc = (if s.seq.inDelaySlot then s.pc - 4 else s.pc) ∧
    t.cp0.cause.bd = s.seq.inDelaySlot ∧ t.cp0.cause.excCode = x.code ∧
    (∀ z, x = .cpu z → t.cp0.cause.ce = z) ∧ t.cp0.cause.sw = s.cp0.cause.sw ∧
    t.cp0.status = { s.cp0.status with
      kuo := s.cp0.status.kup, ieo := s.cp0.status.iep, kup := s.cp0.status.kuc,
      iep := s.cp0.status.iec, kuc := false, iec := false } ∧
    t.cp0.index = s.cp0.index ∧ t.cp0.entryLo = s.cp0.entryLo ∧ t.cp0.config = s.cp0.config ∧
    t.cp0.context.pteBase = s.cp0.context.pteBase ∧ t.cp0.entryHi.pid = s.cp0.entryHi.pid ∧
    t.tlb = s.tlb ∧ KeepsGpr s t ∧ KeepsHiLo s t ∧ (∀ r, t.fgrValue r = s.deliveredFgr r) ∧
    KeepsMemory s t ∧ KeepsCaches s t ∧ NoPendingLoad t ∧ NoPendingFpLoad t

/-- An exception that carries no address leaves BadVAddr, Context and EntryHi alone
(60_exceptions.md R401, R426). -/
def KeepsAddressRecords (s t : State) : Prop :=
  t.cp0.badVAddr = s.cp0.badVAddr ∧ t.cp0.context = s.cp0.context ∧ t.cp0.entryHi = s.cp0.entryHi

/-- The exceptions an FPA operation ends with: an untrapped V becomes E
(46_fpa_instructions.md R342). -/
def State.fpSettled (s : State) (o : FpOutcome) : FpExceptions :=
  settleExceptions false s.fcr31.enables o.exceptions

/-- An FPA operation completes with exceptions `e`: FCR31 records them, an interrupt line asserted before
stays asserted, `regs` says what the FGRs hold, nothing else changes (46_fpa_instructions.md R342,
60_exceptions.md R450). -/
def FpResult (s : State) (e : FpExceptions) (c : Bool) (regs : State → Prop) (o : Result) : Prop :=
  ∃ t, o = .next t ∧ regs t ∧
    t.fcr31 = { s.fcr31 with c := c, exceptions := e, sticky := s.fcr31.sticky ||| e.extractLsb' 0 5 } ∧
    t.fpaHeld = s.fpaLine ∧ KeepsGpr s t ∧ KeepsHiLo s t ∧ KeepsSystem s t ∧ KeepsMemory s t ∧
    KeepsCaches s t ∧ Continues s t ∧ NoPendingLoad t ∧ NoPendingFpLoad t

/-- A 32-bit result in `fd`: nothing is said of FGR[fd+1], which is undefined
(46_fpa_instructions.md R344). -/
def SingleIn (s : State) (fd : Reg) (v : Word) (t : State) : Prop :=
  t.fgrValue fd = v ∧ ∀ r, r ≠ fd → r ≠ fd + 1 → t.fgrValue r = s.deliveredFgr r

/-- A double result in `fd` and `fd + 1` (46_fpa_instructions.md R344). -/
def DoubleIn (s : State) (fd : Reg) (v : Raw) (t : State) : Prop :=
  t.fgrValue fd = v.extractLsb' 0 32 ∧ t.fgrValue (fd + 1) = v.extractLsb' 32 32 ∧
    ∀ r, r ≠ fd → r ≠ fd + 1 → t.fgrValue r = s.deliveredFgr r

/-- No FGR is written. -/
def NoFgrWritten (s t : State) : Prop := ∀ r, t.fgrValue r = s.deliveredFgr r

/-- The FPA can run an operation: CU1 set and an FPA present (46_fpa_instructions.md R340). -/
def FpaReady (s : State) : Prop := s.cp0.status.cu.getLsbD 1 = true ∧ s.chip.hasFpa = true

/-- CP0 is usable: Kernel mode, or CU0 (44_cp0_instructions.md R296). -/
def Cp0Ready (s : State) : Prop := s.cp0.status.kuc = false ∨ s.cp0.status.cu.getLsbD 0 = true

/-- A Kernel-mode data access to kseg1, answered by memory, with the cache not isolated and the bus not
held by a write that is never acknowledged (20_memory.md R100, R103, R125; 71_bus_interface.md R548). -/
def UncachedAccess (s : State) (va : Word) : Prop :=
  s.cp0.status.kuc = false ∧ va.extractLsb' 29 3 = 5 ∧ s.cp0.status.isc = false ∧
    s.seq.busBlocked = false ∧ s.env.dataReply = .memory

/-- The physical address of kseg0 and kseg1 (20_memory.md R102, R103). -/
def unmappedAddress (va : Word) : Word := va &&& 0x1fffffff

/-! ## Data as bytes of memory (20_memory.md R81) -/

/-- The halfword at an even byte address, in the byte order selected at reset. -/
def State.halfAt (s : State) (a : Nat) : BitVec 16 :=
  if s.mode.bigEndian then s.memoryByte a ++ s.memoryByte (a + 1)
  else s.memoryByte (a + 1) ++ s.memoryByte a

/-- The word at a byte address that is a multiple of 4, in the byte order selected at reset. -/
def State.wordAt (s : State) (a : Nat) : Word :=
  if s.mode.bigEndian then
    s.memoryByte a ++ s.memoryByte (a + 1) ++ s.memoryByte (a + 2) ++ s.memoryByte (a + 3)
  else s.memoryByte (a + 3) ++ s.memoryByte (a + 2) ++ s.memoryByte (a + 1) ++ s.memoryByte a

/-- The bytes an aligned store of the low part of `v` leaves at byte address `a` and up. -/
def Width.bytes (n : Width) (bigEndian : Bool) (a : Nat) (v : Word) : List (Nat × Byte) :=
  match n, bigEndian with
  | .byte, _ => [(a, v.extractLsb' 0 8)]
  | .half, true => [(a, v.extractLsb' 8 8), (a + 1, v.extractLsb' 0 8)]
  | .half, false => [(a, v.extractLsb' 0 8), (a + 1, v.extractLsb' 8 8)]
  | .word, true =>
    [(a, v.extractLsb' 24 8), (a + 1, v.extractLsb' 16 8), (a + 2, v.extractLsb' 8 8),
      (a + 3, v.extractLsb' 0 8)]
  | .word, false =>
    [(a, v.extractLsb' 0 8), (a + 1, v.extractLsb' 8 8), (a + 2, v.extractLsb' 16 8),
      (a + 3, v.extractLsb' 24 8)]

/-- An uncached store of whole bytes completes: the listed bytes are stored, every other byte of memory,
every register and both caches are unchanged. -/
def StoreBytesResult (s : State) (bytes : List (Nat × Byte)) (o : Result) : Prop :=
  ∃ t, o = .next t ∧ (∀ p, p ∈ bytes → t.memoryByte p.1 = p.2) ∧
    (∀ a, (∀ p, p ∈ bytes → a ≠ p.1) → t.memoryByte a = s.memoryByte a) ∧
    KeepsGpr s t ∧ KeepsHiLo s t ∧ KeepsFpa s t ∧ KeepsSystem s t ∧ KeepsCaches s t ∧
    Continues s t ∧ NoPendingLoad t ∧ NoPendingFpLoad t

/-- What a data access may change: caches, the write buffer (never what memory reads as), and the bits
TS, PE and CM of Status (20_memory.md R109, R131, R132). -/
def AccessKeeps (s u : State) : Prop :=
  u.chip = s.chip ∧ u.mode = s.mode ∧ u.gpr = s.gpr ∧ u.hi = s.hi ∧ u.lo = s.lo ∧ u.pc = s.pc ∧
    u.nextPc = s.nextPc ∧ u.tlb = s.tlb ∧ u.fgr = s.fgr ∧ u.fcr31 = s.fcr31 ∧ u.fpaHeld = s.fpaHeld ∧
    u.seq = s.seq ∧
    u.cp0 = { s.cp0 with status := { s.cp0.status with
      ts := u.cp0.status.ts, pe := u.cp0.status.pe, cm := u.cp0.status.cm } }

/-- The instruction took an exception: `t` is exception entry from a state in which the instruction had
not moved the pc and had changed no sequencing state. -/
def EndsInException (s t : State) : Prop :=
  ∃ (u : State) (x : Exc), t = u.takeException x ∧ u.pc = s.pc ∧ u.nextPc = s.nextPc ∧ u.seq = s.seq

/-- The instruction waits for a bus transaction that never ends, and has not completed
(71_bus_interface.md R545, R548). -/
def EndsInWait (s t : State) : Prop :=
  ∃ u : State, t = u.waitForBus ∧ u.pc = s.pc ∧ u.nextPc = s.nextPc ∧ u.seq = s.seq

/-! ## Cache arrays (20_memory.md R124 to R129) -/

/-- Of the caches only the entries of one array change that the words `ws` select: the other array, every
other tag and every other data word stay (20_memory.md R124, R126). -/
def KeepsOtherEntries (s t : State) (side : CacheSide) (ws : List WordAddr) : Prop :=
  (∀ d, d ≠ side → t.cache d = s.cache d) ∧
  (∀ i, (∀ w, w ∈ ws → i ≠ tagIndex side s.acInForce w) →
    (t.cache side).tagAt i = (s.cache side).tagAt i) ∧
  (∀ n i, (∀ w, w ∈ ws → i ≠ dataIndex side s.acInForce w) →
    (t.cache side).dataAt n i = (s.cache side).dataAt n i)

/-- A refill of the words `ws` that ended in BusError: the caches are as they were, or the entries the
words select are invalid and nothing else changed; no data word of the array changes either way
(71_bus_interface.md R546, D43). One choice covers the words of a block (log 35). -/
def RefillAborted (s t : State) (side : CacheSide) (ws : List WordAddr) : Prop :=
  KeepsCaches s t ∨
  (KeepsOtherEntries s t side ws ∧
    (∀ n i, (t.cache side).dataAt n i = (s.cache side).dataAt n i) ∧
    ∀ w, w ∈ ws → ∃ x, (t.cache side).tagAt (tagIndex side s.acInForce w) = some x ∧ x.valid = false)

/-! ## FPA operations with and without a trap (46_fpa_instructions.md R342, 60_exceptions.md R450) -/

/-- FCR31 after an operation with exceptions `e`. -/
def State.fcr31With (s : State) (e : FpExceptions) : Fcr31 :=
  { s.fcr31 with exceptions := e, sticky := s.fcr31.sticky ||| e.extractLsb' 0 5 }

/-- The operation traps: E, or an exception whose trap is enabled (60_exceptions.md R450). -/
def FpTraps (s : State) (e : FpExceptions) : Prop :=
  e.getLsbD 5 = true ∨ ∃ k, k < 5 ∧ e.getLsbD k = true ∧ s.fcr31.enables.getLsbD k = true

/-- An FPA operation that traps writes no FGR and leaves C: with the FPA interrupt enabled the Int
exception is taken on the instruction itself (60_exceptions.md R450), else the instruction completes
(R455; log 28); the line is asserted either way. -/
def FpTrapResult (s : State) (e : FpExceptions) (o : Result) : Prop :=
  (s.fpaInterruptEnabled = true →
    EntersException s .int o ∧
      ∃ t, o = .next t ∧ t.fcr31 = s.fcr31With e ∧ t.fpaHeld = s.fpaLine ∧ t.fpaLine = true ∧
        KeepsAddressRecords s t) ∧
  (s.fpaInterruptEnabled = false →
    FpResult s e s.fcr31.c (fun t => NoFgrWritten s t ∧ t.fpaLine = true) o)

/-- A computational or conversion instruction with outcome `r` and destination as `regs` says: it
completes with the result when it raises no trap, and traps otherwise. -/
def FpOperationResult (s : State) (r : FpOutcome) (regs : State → Prop) (o : Result) : Prop :=
  (¬ FpTraps s (s.fpSettled r) → FpResult s (s.fpSettled r) s.fcr31.c regs o) ∧
  (FpTraps s (s.fpSettled r) → FpTrapResult s (s.fpSettled r) o)

/-- A compare of operands in relation `rel` under `cond`: C, which BC1T and BC1F see one instruction
later, and V when unordered and cond[3]; a V whose trap is enabled traps (46_fpa_instructions.md R364,
R367 b). -/
def FpCompareResult (s : State) (cond : BitVec 4) (rel : Relation) (o : Result) : Prop :=
  (¬ FpTraps s (compareExceptions cond rel) →
    FpResult s (compareExceptions cond rel) (conditionHolds cond rel)
      (fun t => NoFgrWritten s t ∧ t.seq.condPending = some s.fcr31.c) o) ∧
  (FpTraps s (compareExceptions cond rel) → FpTrapResult s (compareExceptions cond rel) o)

/-- CTC1 completes with FCR31 as given, the interrupt line held apart from it or not, and with the old C
that a BC1T or BC1F right after it may still see (46_fpa_instructions.md R349, R367 b;
60_exceptions.md R450). -/
def ControlResult (s : State) (v : Fcr31) (held : Bool) (old : Option Bool) (o : Result) : Prop :=
  ∃ t, o = .next t ∧ t.fcr31 = v ∧ t.fpaHeld = held ∧ t.seq.condPending = old ∧ NoFgrWritten s t ∧
    KeepsGpr s t ∧ KeepsHiLo s t ∧ KeepsSystem s t ∧ KeepsMemory s t ∧ KeepsCaches s t ∧
    Continues s t ∧ NoPendingLoad t ∧ NoPendingFpLoad t

/-! ## FPA values (45_fpa_formats.md R315, R321, R326; 46_fpa_instructions.md R362, R369) -/

/-- The value of a number; both zeros are 0. -/
def FpValue.toRat : FpValue → ℚ
  | .finite neg _ m e => (if neg then -1 else 1) * (m : ℚ) * (2 : ℚ) ^ e
  | _ => 0

/-- A zero, denormalized or normalized number. -/
def FpValue.isNumber : FpValue → Bool
  | .zero _ => true
  | .finite _ _ _ _ => true
  | _ => false

/-- A NaN of either kind. -/
def FpValue.isNan : FpValue → Bool
  | .nan _ => true
  | _ => false

/-- The outcome is the one of the exact non-zero result `x`, rounded and finished: whatever fraction of
positive numbers its magnitude is written as (46_fpa_instructions.md R369). -/
def FinishesAs (tiny : Bool) (f : Format) (rm : BitVec 2) (x : ℚ) (o : FpOutcome) : Prop :=
  ∀ num den : Nat, 0 < num → 0 < den → |x| = (num : ℚ) / den →
    o = finishNumeric tiny f rm (decide (x < 0)) num den

/-- `n` is `x` rounded to an integer: RN nearest with ties to even, RZ toward zero, RP up, RM down
(46_fpa_instructions.md R362). -/
def RoundsToInt (rm : BitVec 2) (x : ℚ) (n : Int) : Prop :=
  (rm = 0 → |x - n| * 2 ≤ 1 ∧ (|x - n| * 2 = 1 → n % 2 = 0)) ∧
  (rm = 1 → |(n : ℚ)| ≤ |x| ∧ |x| < |(n : ℚ)| + 1 ∧ 0 ≤ x * n) ∧
  (rm = 2 → x ≤ n ∧ (n : ℚ) < x + 1) ∧
  (rm = 3 → (n : ℚ) ≤ x ∧ x < n + 1)

/-! ## Condition inputs (43_special_coprocessor.md R270, 60_exceptions.md R448) -/

/-- The condition latches hold the BrCond pins sampled in this step. -/
def CapturesConditions (s t : State) : Prop :=
  t.seq.condLatch0 = s.env.brCond0 ∧ t.seq.condLatch2 = s.env.brCond2 ∧
    t.seq.condLatch3 = s.env.brCond3

end Sys2Proof.Machine
end

