-- ==== Sys2Proof/Certificates/Slice0/Obligations.lean ====
section
/-! DEFINITION. The statements for the provers: what reset leaves, what encodings mean, what every step
keeps, what each instruction does and leaves alone. -/

open Sys2Proof Sys2Proof.Machine

/-- Reset state: pc, Status, Random, Config, the constants, sequencing (R78). After reset of any
part under any mode pins: pc is 0xbfc00000 and the next address follows it, Status has SwC, KUc and
IEc clear, BEV set and TS set exactly on base versions, Random is 63, Config reads as R78 gives it,
PRId and FCR0 read as R78 gives them, the mode vector is the one latched, no instruction is in a
delay slot and no load is pending. (What R78 leaves undefined is the model's choice, logs 2 and 3,
and is not stated.) -/
def Obligations.ResetState : Prop :=
  ∀ (chip : Chip) (m : ModeVector),
    (State.resetOf chip m).pc = 0xbfc00000 ∧ (State.resetOf chip m).nextPc = 0xbfc00004 ∧
    (State.resetOf chip m).chip = chip ∧ (State.resetOf chip m).mode = m ∧
    (statusWord (State.resetOf chip m).cp0.status).getLsbD 17 = false ∧
    (statusWord (State.resetOf chip m).cp0.status).getLsbD 1 = false ∧
    (statusWord (State.resetOf chip m).cp0.status).getLsbD 0 = false ∧
    (statusWord (State.resetOf chip m).cp0.status).getLsbD 22 = true ∧
    (statusWord (State.resetOf chip m).cp0.status).getLsbD 21 = !chip.hasTlb ∧
    (State.resetOf chip m).cp0.random = 63 ∧
    configWord chip (State.resetOf chip m).cp0.config =
      (0#1) ++ bit m.halfFreqBus ++ bit m.dBlockRefill ++ (0b011#3) ++ (0#1) ++ (0#1) ++ (0#1) ++
        bit chip.configRevA ++ (0#22) ∧
    prIdWord = 0x00000230 ∧ fcr0Word chip = (0x000003#24) ++ chip.fcr0Rev ∧
    (State.resetOf chip m).seq.inDelaySlot = false ∧
    (State.resetOf chip m).seq.loadPending = none ∧
    (State.resetOf chip m).seq.fpLoadPending = none ∧
    State.reset = State.resetOf Config.resetChip Config.resetMode

/-- The invariant of the machine holds after reset of any part (R78, R80, R120, R33). The state
after reset of any part under any mode pins, State.reset among them, satisfies Inv: memory in
canonical form, at most four pending stores, Random in 8..63, TS = 1 on base versions, no reserved
FPInt on parts with an FPA, no pending load of r0, a Config window of at most ten instructions, an
empty read buffer. -/
def Obligations.ResetHoldsInvariant : Prop :=
  (∀ (chip : Chip) (m : ModeVector), Machine.Inv (State.resetOf chip m)) ∧ Machine.Inv State.reset

/-- Every step keeps the invariant of the machine (R33, R41, R57, R73, R80, R120, R185, R511). For
every state that satisfies Inv, if a step answers a next state then that state satisfies Inv: memory
stays in canonical form, the write buffer holds at most four stores, Random stays in 8..63, TS stays
1 on base versions, FPInt never becomes a reserved value on a part with an FPA, no load of r0 is
ever pending, the Config window stays at most ten instructions long, and the read buffer is empty
(R73). -/
def Obligations.StepKeepsInvariant : Prop :=
  ∀ s t : State, Machine.Inv s → step s = .next t → Machine.Inv t

/-- Decoding the encoding of any instruction gives the instruction back (R141, R155, R164). For
every instruction, well-formed or not, with every operand at every value its field admits, decode of
encode is that instruction. -/
def Obligations.DecodeEncodeRoundTrip : Prop :=
  ∀ i : Instr, decode (encode i) = .ok i

/-- A word decodes to an instruction exactly if it shows the bits of a row of the opcode table, with
the fields of the word (R155, R164, D31). Whenever a word decodes to an instruction, the word under
the mask of that instruction's row of the opcode table equals the row's match value. And row by row:
a word that equals the row's match value under the row's mask decodes to the row's instruction, each
operand being the word's bits at the place the table gives. The bits a row neither fixes nor reads
are ignored whatever they hold (R155, D31; log 23, DEDUCED). -/
def Obligations.DecodeMatchesOpcodeTable : Prop :=
  (∀ (w : Word) (i : Instr), decode w = .ok i → w &&& opcodeMask i = opcodeMatch i) ∧
  (∀ w : Word,
    (w &&& 0xfc000000 = 0x80000000 →
      decode w = .ok (.lb (w.extractLsb' 21 5) (w.extractLsb' 16 5) (w.extractLsb' 0 16))) ∧
    (w &&& 0xfc000000 = 0x84000000 →
      decode w = .ok (.lh (w.extractLsb' 21 5) (w.extractLsb' 16 5) (w.extractLsb' 0 16))) ∧
    (w &&& 0xfc000000 = 0x88000000 →
      decode w = .ok (.lwl (w.extractLsb' 21 5) (w.extractLsb' 16 5) (w.extractLsb' 0 16))) ∧
    (w &&& 0xfc000000 = 0x8c000000 →
      decode w = .ok (.lw (w.extractLsb' 21 5) (w.extractLsb' 16 5) (w.extractLsb' 0 16))) ∧
    (w &&& 0xfc000000 = 0x90000000 →
      decode w = .ok (.lbu (w.extractLsb' 21 5) (w.extractLsb' 16 5) (w.extractLsb' 0 16))) ∧
    (w &&& 0xfc000000 = 0x94000000 →
      decode w = .ok (.lhu (w.extractLsb' 21 5) (w.extractLsb' 16 5) (w.extractLsb' 0 16))) ∧
    (w &&& 0xfc000000 = 0x98000000 →
      decode w = .ok (.lwr (w.extractLsb' 21 5) (w.extractLsb' 16 5) (w.extractLsb' 0 16))) ∧
    (w &&& 0xfc000000 = 0xa0000000 →
      decode w = .ok (.sb (w.extractLsb' 21 5) (w.extractLsb' 16 5) (w.extractLsb' 0 16))) ∧
    (w &&& 0xfc000000 = 0xa4000000 →
      decode w = .ok (.sh (w.extractLsb' 21 5) (w.extractLsb' 16 5) (w.extractLsb' 0 16))) ∧
    (w &&& 0xfc000000 = 0xa8000000 →
      decode w = .ok (.swl (w.extractLsb' 21 5) (w.extractLsb' 16 5) (w.extractLsb' 0 16))) ∧
    (w &&& 0xfc000000 = 0xac000000 →
      decode w = .ok (.sw (w.extractLsb' 21 5) (w.extractLsb' 16 5) (w.extractLsb' 0 16))) ∧
    (w &&& 0xfc000000 = 0xb8000000 →
      decode w = .ok (.swr (w.extractLsb' 21 5) (w.extractLsb' 16 5) (w.extractLsb' 0 16))) ∧
    (w &&& 0xfc000000 = 0x20000000 →
      decode w = .ok (.addi (w.extractLsb' 21 5) (w.extractLsb' 16 5) (w.extractLsb' 0 16))) ∧
    (w &&& 0xfc000000 = 0x24000000 →
      decode w = .ok (.addiu (w.extractLsb' 21 5) (w.extractLsb' 16 5) (w.extractLsb' 0 16))) ∧
    (w &&& 0xfc000000 = 0x28000000 →
      decode w = .ok (.slti (w.extractLsb' 21 5) (w.extractLsb' 16 5) (w.extractLsb' 0 16))) ∧
    (w &&& 0xfc000000 = 0x2c000000 →
      decode w = .ok (.sltiu (w.extractLsb' 21 5) (w.extractLsb' 16 5) (w.extractLsb' 0 16))) ∧
    (w &&& 0xfc000000 = 0x30000000 →
      decode w = .ok (.andi (w.extractLsb' 21 5) (w.extractLsb' 16 5) (w.extractLsb' 0 16))) ∧
    (w &&& 0xfc000000 = 0x34000000 →
      decode w = .ok (.ori (w.extractLsb' 21 5) (w.extractLsb' 16 5) (w.extractLsb' 0 16))) ∧
    (w &&& 0xfc000000 = 0x38000000 →
      decode w = .ok (.xori (w.extractLsb' 21 5) (w.extractLsb' 16 5) (w.extractLsb' 0 16))) ∧
    (w &&& 0xfc000000 = 0x3c000000 →
      decode w = .ok (.lui (w.extractLsb' 16 5) (w.extractLsb' 0 16))) ∧
    (w &&& 0xfc00003f = 0x00000020 →
      decode w = .ok (.add (w.extractLsb' 21 5) (w.extractLsb' 16 5) (w.extractLsb' 11 5))) ∧
    (w &&& 0xfc00003f = 0x00000021 →
      decode w = .ok (.addu (w.extractLsb' 21 5) (w.extractLsb' 16 5) (w.extractLsb' 11 5))) ∧
    (w &&& 0xfc00003f = 0x00000022 →
      decode w = .ok (.sub (w.extractLsb' 21 5) (w.extractLsb' 16 5) (w.extractLsb' 11 5))) ∧
    (w &&& 0xfc00003f = 0x00000023 →
      decode w = .ok (.subu (w.extractLsb' 21 5) (w.extractLsb' 16 5) (w.extractLsb' 11 5))) ∧
    (w &&& 0xfc00003f = 0x00000024 →
      decode w = .ok (.and (w.extractLsb' 21 5) (w.extractLsb' 16 5) (w.extractLsb' 11 5))) ∧
    (w &&& 0xfc00003f = 0x00000025 →
      decode w = .ok (.or (w.extractLsb' 21 5) (w.extractLsb' 16 5) (w.extractLsb' 11 5))) ∧
    (w &&& 0xfc00003f = 0x00000026 →
      decode w = .ok (.xor (w.extractLsb' 21 5) (w.extractLsb' 16 5) (w.extractLsb' 11 5))) ∧
    (w &&& 0xfc00003f = 0x00000027 →
      decode w = .ok (.nor (w.extractLsb' 21 5) (w.extractLsb' 16 5) (w.extractLsb' 11 5))) ∧
    (w &&& 0xfc00003f = 0x0000002a →
      decode w = .ok (.slt (w.extractLsb' 21 5) (w.extractLsb' 16 5) (w.extractLsb' 11 5))) ∧
    (w &&& 0xfc00003f = 0x0000002b →
      decode w = .ok (.sltu (w.extractLsb' 21 5) (w.extractLsb' 16 5) (w.extractLsb' 11 5))) ∧
    (w &&& 0xfc00003f = 0x00000000 →
      decode w = .ok (.sll (w.extractLsb' 16 5) (w.extractLsb' 11 5) (w.extractLsb' 6 5))) ∧
    (w &&& 0xfc00003f = 0x00000002 →
      decode w = .ok (.srl (w.extractLsb' 16 5) (w.extractLsb' 11 5) (w.extractLsb' 6 5))) ∧
    (w &&& 0xfc00003f = 0x00000003 →
      decode w = .ok (.sra (w.extractLsb' 16 5) (w.extractLsb' 11 5) (w.extractLsb' 6 5))) ∧
    (w &&& 0xfc00003f = 0x00000004 →
      decode w = .ok (.sllv (w.extractLsb' 21 5) (w.extractLsb' 16 5) (w.extractLsb' 11 5))) ∧
    (w &&& 0xfc00003f = 0x00000006 →
      decode w = .ok (.srlv (w.extractLsb' 21 5) (w.extractLsb' 16 5) (w.extractLsb' 11 5))) ∧
    (w &&& 0xfc00003f = 0x00000007 →
      decode w = .ok (.srav (w.extractLsb' 21 5) (w.extractLsb' 16 5) (w.extractLsb' 11 5))) ∧
    (w &&& 0xfc00003f = 0x00000018 →
      decode w = .ok (.mult (w.extractLsb' 21 5) (w.extractLsb' 16 5))) ∧
    (w &&& 0xfc00003f = 0x00000019 →
      decode w = .ok (.multu (w.extractLsb' 21 5) (w.extractLsb' 16 5))) ∧
    (w &&& 0xfc00003f = 0x0000001a →
      decode w = .ok (.div (w.extractLsb' 21 5) (w.extractLsb' 16 5))) ∧
    (w &&& 0xfc00003f = 0x0000001b →
      decode w = .ok (.divu (w.extractLsb' 21 5) (w.extractLsb' 16 5))) ∧
    (w &&& 0xfc00003f = 0x00000010 →
      decode w = .ok (.mfhi (w.extractLsb' 11 5))) ∧
    (w &&& 0xfc00003f = 0x00000011 →
      decode w = .ok (.mthi (w.extractLsb' 21 5))) ∧
    (w &&& 0xfc00003f = 0x00000012 →
      decode w = .ok (.mflo (w.extractLsb' 11 5))) ∧
    (w &&& 0xfc00003f = 0x00000013 →
      decode w = .ok (.mtlo (w.extractLsb' 21 5))) ∧
    (w &&& 0xfc000000 = 0x08000000 →
      decode w = .ok (.j (w.extractLsb' 0 26))) ∧
    (w &&& 0xfc000000 = 0x0c000000 →
      decode w = .ok (.jal (w.extractLsb' 0 26))) ∧
    (w &&& 0xfc00003f = 0x00000008 →
      decode w = .ok (.jr (w.extractLsb' 21 5))) ∧
    (w &&& 0xfc00003f = 0x00000009 →
      decode w = .ok (.jalr (w.extractLsb' 21 5) (w.extractLsb' 11 5))) ∧
    (w &&& 0xfc000000 = 0x10000000 →
      decode w = .ok (.beq (w.extractLsb' 21 5) (w.extractLsb' 16 5) (w.extractLsb' 0 16))) ∧
    (w &&& 0xfc000000 = 0x14000000 →
      decode w = .ok (.bne (w.extractLsb' 21 5) (w.extractLsb' 16 5) (w.extractLsb' 0 16))) ∧
    (w &&& 0xfc000000 = 0x18000000 →
      decode w = .ok (.blez (w.extractLsb' 21 5) (w.extractLsb' 0 16))) ∧
    (w &&& 0xfc000000 = 0x1c000000 →
      decode w = .ok (.bgtz (w.extractLsb' 21 5) (w.extractLsb' 0 16))) ∧
    (w &&& 0xfc1f0000 = 0x04000000 →
      decode w = .ok (.bltz (w.extractLsb' 21 5) (w.extractLsb' 0 16))) ∧
    (w &&& 0xfc1f0000 = 0x04010000 →
      decode w = .ok (.bgez (w.extractLsb' 21 5) (w.extractLsb' 0 16))) ∧
    (w &&& 0xfc1f0000 = 0x04100000 →
      decode w = .ok (.bltzal (w.extractLsb' 21 5) (w.extractLsb' 0 16))) ∧
    (w &&& 0xfc1f0000 = 0x04110000 →
      decode w = .ok (.bgezal (w.extractLsb' 21 5) (w.extractLsb' 0 16))) ∧
    (w &&& 0xfc00003f = 0x0000000c →
      decode w = .ok (.syscall (w.extractLsb' 6 20))) ∧
    (w &&& 0xfc00003f = 0x0000000d →
      decode w = .ok (.brk (w.extractLsb' 6 20))) ∧
    (w &&& 0xffe00000 = 0x40000000 →
      decode w = .ok (.mfc0 (w.extractLsb' 16 5) (w.extractLsb' 11 5))) ∧
    (w &&& 0xffe00000 = 0x40800000 →
      decode w = .ok (.mtc0 (w.extractLsb' 16 5) (w.extractLsb' 11 5))) ∧
    (w &&& 0xfe00001f = 0x42000001 →
      decode w = .ok .tlbr) ∧
    (w &&& 0xfe00001f = 0x42000002 →
      decode w = .ok .tlbwi) ∧
    (w &&& 0xfe00001f = 0x42000006 →
      decode w = .ok .tlbwr) ∧
    (w &&& 0xfe00001f = 0x42000008 →
      decode w = .ok .tlbp) ∧
    (w &&& 0xfe00001f = 0x42000010 →
      decode w = .ok .rfe) ∧
    (w &&& 0xffff0000 = 0x41000000 →
      decode w = .ok (.bc0f (w.extractLsb' 0 16))) ∧
    (w &&& 0xffff0000 = 0x41010000 →
      decode w = .ok (.bc0t (w.extractLsb' 0 16))) ∧
    (w &&& 0xffff0000 = 0x49000000 →
      decode w = .ok (.bc2f (w.extractLsb' 0 16))) ∧
    (w &&& 0xffff0000 = 0x49010000 →
      decode w = .ok (.bc2t (w.extractLsb' 0 16))) ∧
    (w &&& 0xffff0000 = 0x4d000000 →
      decode w = .ok (.bc3f (w.extractLsb' 0 16))) ∧
    (w &&& 0xffff0000 = 0x4d010000 →
      decode w = .ok (.bc3t (w.extractLsb' 0 16))) ∧
    (w &&& 0xfc000000 = 0xc4000000 →
      decode w = .ok (.lwc1 (w.extractLsb' 21 5) (w.extractLsb' 16 5) (w.extractLsb' 0 16))) ∧
    (w &&& 0xfc000000 = 0xe4000000 →
      decode w = .ok (.swc1 (w.extractLsb' 21 5) (w.extractLsb' 16 5) (w.extractLsb' 0 16))) ∧
    (w &&& 0xffe00000 = 0x44000000 →
      decode w = .ok (.mfc1 (w.extractLsb' 16 5) (w.extractLsb' 11 5))) ∧
    (w &&& 0xffe00000 = 0x44400000 →
      decode w = .ok (.cfc1 (w.extractLsb' 16 5) (w.extractLsb' 11 5))) ∧
    (w &&& 0xffe00000 = 0x44800000 →
      decode w = .ok (.mtc1 (w.extractLsb' 16 5) (w.extractLsb' 11 5))) ∧
    (w &&& 0xffe00000 = 0x44c00000 →
      decode w = .ok (.ctc1 (w.extractLsb' 16 5) (w.extractLsb' 11 5))) ∧
    (w &&& 0xffff0000 = 0x45000000 →
      decode w = .ok (.bc1f (w.extractLsb' 0 16))) ∧
    (w &&& 0xffff0000 = 0x45010000 →
      decode w = .ok (.bc1t (w.extractLsb' 0 16))) ∧
    (w &&& 0xffe0003f = 0x46000000 →
      decode w = .ok (.addS (w.extractLsb' 16 5) (w.extractLsb' 11 5) (w.extractLsb' 6 5))) ∧
    (w &&& 0xffe0003f = 0x46200000 →
      decode w = .ok (.addD (w.extractLsb' 16 5) (w.extractLsb' 11 5) (w.extractLsb' 6 5))) ∧
    (w &&& 0xffe0003f = 0x46000001 →
      decode w = .ok (.subS (w.extractLsb' 16 5) (w.extractLsb' 11 5) (w.extractLsb' 6 5))) ∧
    (w &&& 0xffe0003f = 0x46200001 →
      decode w = .ok (.subD (w.extractLsb' 16 5) (w.extractLsb' 11 5) (w.extractLsb' 6 5))) ∧
    (w &&& 0xffe0003f = 0x46000002 →
      decode w = .ok (.mulS (w.extractLsb' 16 5) (w.extractLsb' 11 5) (w.extractLsb' 6 5))) ∧
    (w &&& 0xffe0003f = 0x46200002 →
      decode w = .ok (.mulD (w.extractLsb' 16 5) (w.extractLsb' 11 5) (w.extractLsb' 6 5))) ∧
    (w &&& 0xffe0003f = 0x46000003 →
      decode w = .ok (.divS (w.extractLsb' 16 5) (w.extractLsb' 11 5) (w.extractLsb' 6 5))) ∧
    (w &&& 0xffe0003f = 0x46200003 →
      decode w = .ok (.divD (w.extractLsb' 16 5) (w.extractLsb' 11 5) (w.extractLsb' 6 5))) ∧
    (w &&& 0xffe0003f = 0x46000005 →
      decode w = .ok (.absS (w.extractLsb' 11 5) (w.extractLsb' 6 5))) ∧
    (w &&& 0xffe0003f = 0x46200005 →
      decode w = .ok (.absD (w.extractLsb' 11 5) (w.extractLsb' 6 5))) ∧
    (w &&& 0xffe0003f = 0x46000006 →
      decode w = .ok (.movS (w.extractLsb' 11 5) (w.extractLsb' 6 5))) ∧
    (w &&& 0xffe0003f = 0x46200006 →
      decode w = .ok (.movD (w.extractLsb' 11 5) (w.extractLsb' 6 5))) ∧
    (w &&& 0xffe0003f = 0x46000007 →
      decode w = .ok (.negS (w.extractLsb' 11 5) (w.extractLsb' 6 5))) ∧
    (w &&& 0xffe0003f = 0x46200007 →
      decode w = .ok (.negD (w.extractLsb' 11 5) (w.extractLsb' 6 5))) ∧
    (w &&& 0xffe0003f = 0x46200020 →
      decode w = .ok (.cvtSD (w.extractLsb' 11 5) (w.extractLsb' 6 5))) ∧
    (w &&& 0xffe0003f = 0x46800020 →
      decode w = .ok (.cvtSW (w.extractLsb' 11 5) (w.extractLsb' 6 5))) ∧
    (w &&& 0xffe0003f = 0x46000021 →
      decode w = .ok (.cvtDS (w.extractLsb' 11 5) (w.extractLsb' 6 5))) ∧
    (w &&& 0xffe0003f = 0x46800021 →
      decode w = .ok (.cvtDW (w.extractLsb' 11 5) (w.extractLsb' 6 5))) ∧
    (w &&& 0xffe0003f = 0x46000024 →
      decode w = .ok (.cvtWS (w.extractLsb' 11 5) (w.extractLsb' 6 5))) ∧
    (w &&& 0xffe0003f = 0x46200024 →
      decode w = .ok (.cvtWD (w.extractLsb' 11 5) (w.extractLsb' 6 5))) ∧
    (w &&& 0xffe0003f = 0x46000030 →
      decode w = .ok (.cFS (w.extractLsb' 16 5) (w.extractLsb' 11 5))) ∧
    (w &&& 0xffe0003f = 0x46200030 →
      decode w = .ok (.cFD (w.extractLsb' 16 5) (w.extractLsb' 11 5))) ∧
    (w &&& 0xffe0003f = 0x46000031 →
      decode w = .ok (.cUnS (w.extractLsb' 16 5) (w.extractLsb' 11 5))) ∧
    (w &&& 0xffe0003f = 0x46200031 →
      decode w = .ok (.cUnD (w.extractLsb' 16 5) (w.extractLsb' 11 5))) ∧
    (w &&& 0xffe0003f = 0x46000032 →
      decode w = .ok (.cEqS (w.extractLsb' 16 5) (w.extractLsb' 11 5))) ∧
    (w &&& 0xffe0003f = 0x46200032 →
      decode w = .ok (.cEqD (w.extractLsb' 16 5) (w.extractLsb' 11 5))) ∧
    (w &&& 0xffe0003f = 0x46000033 →
      decode w = .ok (.cUeqS (w.extractLsb' 16 5) (w.extractLsb' 11 5))) ∧
    (w &&& 0xffe0003f = 0x46200033 →
      decode w = .ok (.cUeqD (w.extractLsb' 16 5) (w.extractLsb' 11 5))) ∧
    (w &&& 0xffe0003f = 0x46000034 →
      decode w = .ok (.cOltS (w.extractLsb' 16 5) (w.extractLsb' 11 5))) ∧
    (w &&& 0xffe0003f = 0x46200034 →
      decode w = .ok (.cOltD (w.extractLsb' 16 5) (w.extractLsb' 11 5))) ∧
    (w &&& 0xffe0003f = 0x46000035 →
      decode w = .ok (.cUltS (w.extractLsb' 16 5) (w.extractLsb' 11 5))) ∧
    (w &&& 0xffe0003f = 0x46200035 →
      decode w = .ok (.cUltD (w.extractLsb' 16 5) (w.extractLsb' 11 5))) ∧
    (w &&& 0xffe0003f = 0x46000036 →
      decode w = .ok (.cOleS (w.extractLsb' 16 5) (w.extractLsb' 11 5))) ∧
    (w &&& 0xffe0003f = 0x46200036 →
      decode w = .ok (.cOleD (w.extractLsb' 16 5) (w.extractLsb' 11 5))) ∧
    (w &&& 0xffe0003f = 0x46000037 →
      decode w = .ok (.cUleS (w.extractLsb' 16 5) (w.extractLsb' 11 5))) ∧
    (w &&& 0xffe0003f = 0x46200037 →
      decode w = .ok (.cUleD (w.extractLsb' 16 5) (w.extractLsb' 11 5))) ∧
    (w &&& 0xffe0003f = 0x46000038 →
      decode w = .ok (.cSfS (w.extractLsb' 16 5) (w.extractLsb' 11 5))) ∧
    (w &&& 0xffe0003f = 0x46200038 →
      decode w = .ok (.cSfD (w.extractLsb' 16 5) (w.extractLsb' 11 5))) ∧
    (w &&& 0xffe0003f = 0x46000039 →
      decode w = .ok (.cNgleS (w.extractLsb' 16 5) (w.extractLsb' 11 5))) ∧
    (w &&& 0xffe0003f = 0x46200039 →
      decode w = .ok (.cNgleD (w.extractLsb' 16 5) (w.extractLsb' 11 5))) ∧
    (w &&& 0xffe0003f = 0x4600003a →
      decode w = .ok (.cSeqS (w.extractLsb' 16 5) (w.extractLsb' 11 5))) ∧
    (w &&& 0xffe0003f = 0x4620003a →
      decode w = .ok (.cSeqD (w.extractLsb' 16 5) (w.extractLsb' 11 5))) ∧
    (w &&& 0xffe0003f = 0x4600003b →
      decode w = .ok (.cNglS (w.extractLsb' 16 5) (w.extractLsb' 11 5))) ∧
    (w &&& 0xffe0003f = 0x4620003b →
      decode w = .ok (.cNglD (w.extractLsb' 16 5) (w.extractLsb' 11 5))) ∧
    (w &&& 0xffe0003f = 0x4600003c →
      decode w = .ok (.cLtS (w.extractLsb' 16 5) (w.extractLsb' 11 5))) ∧
    (w &&& 0xffe0003f = 0x4620003c →
      decode w = .ok (.cLtD (w.extractLsb' 16 5) (w.extractLsb' 11 5))) ∧
    (w &&& 0xffe0003f = 0x4600003d →
      decode w = .ok (.cNgeS (w.extractLsb' 16 5) (w.extractLsb' 11 5))) ∧
    (w &&& 0xffe0003f = 0x4620003d →
      decode w = .ok (.cNgeD (w.extractLsb' 16 5) (w.extractLsb' 11 5))) ∧
    (w &&& 0xffe0003f = 0x4600003e →
      decode w = .ok (.cLeS (w.extractLsb' 16 5) (w.extractLsb' 11 5))) ∧
    (w &&& 0xffe0003f = 0x4620003e →
      decode w = .ok (.cLeD (w.extractLsb' 16 5) (w.extractLsb' 11 5))) ∧
    (w &&& 0xffe0003f = 0x4600003f →
      decode w = .ok (.cNgtS (w.extractLsb' 16 5) (w.extractLsb' 11 5))) ∧
    (w &&& 0xffe0003f = 0x4620003f →
      decode w = .ok (.cNgtD (w.extractLsb' 16 5) (w.extractLsb' 11 5))))

/-- Sample words of every family decode as the spec writes them (R192, R201, R231, R261, R297, R348,
R353, R357, R360, R364, R366, R155). Example words of the spec decode to the instructions they stand
for: at least one each of the ALU immediate, register, shift and HI/LO families, the loads, the
stores, the jumps, the branches, SYSCALL, RFE and the TLB instructions, and the FPA loads, moves,
branches, arithmetic, conversions and compares. -/
def Obligations.DecodeSampleWords : Prop :=
  decode 0x2422ffff = .ok (.addiu 1 2 0xffff) ∧ decode 0x00221821 = .ok (.addu 1 2 3) ∧
    decode 0x00021900 = .ok (.sll 2 3 4) ∧ decode 0x00200011 = .ok (.mthi 1) ∧
    decode 0x8c220004 = .ok (.lw 1 2 4) ∧ decode 0xac220004 = .ok (.sw 1 2 4) ∧
    decode 0x08000400 = .ok (.j 0x400) ∧ decode 0x10220004 = .ok (.beq 1 2 4) ∧
    decode 0x0000000c = .ok (.syscall 0) ∧ decode 0x42000010 = .ok .rfe ∧
    decode 0x42000002 = .ok .tlbwi ∧ decode 0xc4220004 = .ok (.lwc1 1 2 4) ∧
    decode 0x44081000 = .ok (.mfc1 8 2) ∧ decode 0x45010004 = .ok (.bc1t 4) ∧
    decode 0x46041181 = .ok (.subS 4 2 6) ∧ decode 0x46001006 = .ok (.movS 2 0) ∧
    decode 0x46201020 = .ok (.cvtSD 2 0) ∧ decode 0x4604103c = .ok (.cLtS 4 2)

/-- Words that are no instruction: RI, CpU before any sub-decode, Unimplemented Operation, refusals,
and the step that meets one or a word of an absent FPA (R160, R161, R276, R322, R368, D13, D32,
D33). A step whose fetched word is no instruction does what undefinedWord says of the decoding
error. A reserved major opcode or SPECIAL function decodes to the error that takes RI. LWC0, LWC2,
LWC3, SWC0, SWC2, SWC3 words and coprocessor words with no meaning take CpU with CE = z when
coprocessor z is not usable, and are refused when it is (D32). A COP1 word with bit 25 set decodes
to the reserved-operation error exactly when its function and format are no pair of R322 (D33, log
24); with the FPA ready that sets Exceptions to E alone, writes no FGR and traps, or completes with
the interrupt masked (D35, log 28). BCOND words with another rt are refused. With CU1 = 1 on a part
with no FPA a step that fetches a COP1, LWC1 or SWC1 word, valid or reserved, answers the refusal
noFpa (R276, D13, log 22). -/
def Obligations.ReservedWords : Prop :=
  (∀ (s t u : State) (w : Word) (e : DecodeError),
    s.sample.env.reset = none → s.mode.triState = false → s.seq.waiting = false →
    s.sample.serveBus = .ok t → t.halting = false → t.takesInterrupt = false →
    t.fetchWord = .ok w u → decode w = .error e → step s = u.undefinedWord e) ∧
  (∀ w : Word,
    ((20 ≤ (opField w).toNat ∧ (opField w).toNat ≤ 31) ∨ (opField w).toNat = 39 ∨
      (opField w).toNat = 44 ∨ (opField w).toNat = 45 ∨ (opField w).toNat = 47 ∨
      (52 ≤ (opField w).toNat ∧ (opField w).toNat ≤ 55) ∨ 60 ≤ (opField w).toNat) →
    decode w = .error .reservedInstruction) ∧
  (∀ w : Word, opField w = 0 → (functField w = 1 ∨ functField w = 5 ∨ functField w = 0xa ∨
      functField w = 0xb ∨ functField w = 0xe ∨ functField w = 0xf ∨
      (0x14 ≤ (functField w).toNat ∧ (functField w).toNat ≤ 0x17) ∨
      (0x1c ≤ (functField w).toNat ∧ (functField w).toNat ≤ 0x1f) ∨ functField w = 0x28 ∨
      functField w = 0x29 ∨ 0x2c ≤ (functField w).toNat) →
    decode w = .error .reservedInstruction) ∧
  (∀ s : State, s.undefinedWord .reservedInstruction = s.raise .ri ∧
    EntersException s .ri (s.undefinedWord .reservedInstruction)) ∧
  (∀ (w : Word) (z : BitVec 2), z ≠ 1 →
    (opField w = (0b1100#4) ++ z ∨ opField w = (0b1110#4) ++ z) →
    decode w = .error (.undefinedCoprocessorOp z)) ∧
  (∀ (w : Word) (z : BitVec 2), opField w = (0b0100#4) ++ z →
    ((2 ≤ z.toNat ∧ rsField w ≠ 8) ∨ (rsField w = 8 ∧ 2 ≤ (rtField w).toNat) ∨ rsField w = 1 ∨
      rsField w = 3 ∨ rsField w = 5 ∨ rsField w = 7 ∨
      (9 ≤ (rsField w).toNat ∧ (rsField w).toNat ≤ 15) ∨
      (z = 0 ∧ (rsField w = 2 ∨ rsField w = 6 ∨ (16 ≤ (rsField w).toNat ∧
        w.extractLsb' 0 5 ≠ 1 ∧ w.extractLsb' 0 5 ≠ 2 ∧ w.extractLsb' 0 5 ≠ 6 ∧
        w.extractLsb' 0 5 ≠ 8 ∧ w.extractLsb' 0 5 ≠ 16)))) →
    decode w = .error (.undefinedCoprocessorOp z)) ∧
  (∀ (s : State) (w : Word) (z : BitVec 2) (e : DecodeError),
    (opField w = (0b0100#4) ++ z ∨ opField w = (0b1100#4) ++ z ∨ opField w = (0b1110#4) ++ z) →
    s.usable z = false → decode w = .error e →
    s.undefinedWord e = s.raise (.cpu z) ∧ EntersException s (.cpu z) (s.undefinedWord e)) ∧
  (∀ (s : State) (z : BitVec 2), s.usable z = true →
    s.undefinedWord (.undefinedCoprocessorOp z) =
      .refused (if z = 1 ∧ s.chip.hasFpa = false then .noFpa else .undefinedCoprocessorOp z)) ∧
  (∀ w : Word, opField w = 0x11 → w.getLsbD 25 = true →
    (decode w = .error .reservedFpaOp ↔
      ¬ ((rsField w = 16 ∧ (functField w).toNat ∈ [0, 1, 2, 3, 5, 6, 7, 33, 36]) ∨
        (rsField w = 17 ∧ (functField w).toNat ∈ [0, 1, 2, 3, 5, 6, 7, 32, 36]) ∨
        (rsField w = 20 ∧ (functField w).toNat ∈ [32, 33]) ∨
        ((rsField w = 16 ∨ rsField w = 17) ∧ 48 ≤ (functField w).toNat)))) ∧
  (∀ (s : State), FpaReady s → FpTrapResult s 0x20 (s.undefinedWord .reservedFpaOp)) ∧
  (∀ (s : State) (w : Word), opField w = 1 →
    (rtField w ≠ 0 ∧ rtField w ≠ 1 ∧ rtField w ≠ 16 ∧ rtField w ≠ 17) →
    decode w = .error .undefinedBcond ∧ s.undefinedWord .undefinedBcond = .refused .undefinedBcond) ∧
  (∀ (s : State), s.cp0.status.cu.getLsbD 1 = true → s.chip.hasFpa = false →
    s.undefinedWord .reservedFpaOp = .refused .noFpa ∧
    ∀ i : Instr, (opField (encode i) = 0x11 ∨ opField (encode i) = 0x31 ∨
      opField (encode i) = 0x39) → exec i s = .refused .noFpa) ∧
  (∀ (s t u : State) (w : Word),
    s.sample.env.reset = none → s.mode.triState = false → s.seq.waiting = false →
    s.sample.serveBus = .ok t → t.halting = false → t.takesInterrupt = false →
    t.fetchWord = .ok w u → (opField w = 0x11 ∨ opField w = 0x31 ∨ opField w = 0x39) →
    t.cp0.status.cu.getLsbD 1 = true → t.chip.hasFpa = false → step s = .refused .noFpa)

/-- A step runs the decoded instruction, or takes the exception of its fetch (R12, R99, R256, R408,
R432, R545, R560). A step first samples the inputs and serves the bus events. If no reset is
asserted, the core is not stuck (Tri-State, or waiting for the bus) and not halting, and no
interrupt is taken: when the fetch at pc reads w (leaving u) and w decodes to i, the step is exec of
i at u after what the bus does between fetch and data access, with the inputs sampled in this step;
when the fetch raises an exception, the step takes it, and every address exception at pc (AdEL,
TLBL) is one; when the fetch never ends the core starts to wait. -/
def Obligations.StepRunsDecodedInstruction : Prop :=
  ∀ (s t : State),
    s.sample.env.reset = none → s.mode.triState = false → s.seq.waiting = false →
    s.sample.serveBus = .ok t → t.halting = false → t.takesInterrupt = false →
    (∀ (w : Word) (u : State) (i : Instr), t.fetchWord = .ok w u → decode w = .ok i →
      step s = exec i u.serveData ∧ u.serveData.env = s.sample.env ∧
        (s.sample.env.dataEvents = [] → u.serveData = u)) ∧
    (∀ (x : Exc) (u : State), t.fetchWord = .exc x u →
      step s = u.raise x ∧ EntersException u x (step s)) ∧
    (∀ (x : Exc) (u : State), t.address t.pc .fetch (t.pc.extractLsb' 0 2 == 0) = .exc x u →
      step s = t.raise x) ∧
    (∀ u : State, t.fetchWord = .never u → step s = .next u.waitForBus)

/-- Instruction fetch: memory, devices, cache hit, miss and block refill, bad parity, bus error, no
answer, refusals (R99, R103, R121, R122, R125, R126, R127, R132, R509, R510, R514, R546). A fetch
whose pc translates to pa, cacheable or not (in Kernel mode at an aligned pc: kseg1 uncached, kseg0
cacheable, at pc AND 0x1fffffff; UnmappedSegments, BaseVersionMapping and TlbTranslation give the
other pages and User mode); u is s after translation, s itself but for Status.TS. The fetch notes
whether it is cacheable, and keeps for the preceding side of R509 how the fetch before it was made;
it changes nothing else of the sequencing state. Uncached, no store pending for the word: answered
by memory, the memory word with every earlier store written and the write buffer empty; answered by
a device, the device's word (R540); ended by BusError, IBE; never answered, or behind a dead write,
the core waits. Cacheable: right after an instruction that changed IsC or SwC the fetch is refused
(R509, D41, log 33); between a change of Config.AC and the flushes it is refused (R127, R510, D41,
log 33); else a hit gives the cached word and changes nothing else; a miss with no store pending for
the word gives the word memory holds before the pending stores are written (log 36), or the
device's, and afterwards the four words of its block hit with what the bus gave, no other entry and,
unless the caches are swapped, nothing of the data cache changed (R126); or IBE, the four entries of
the block then unchanged or invalid, never valid with new data, and no other entry changed (R546,
D43; that one choice covers the whole block is the model's, log 35, DESIGN CHOICE); or a wait, no
cache changed. A miss sets Status.PE when the lookup found bad parity (which always misses) and
keeps it otherwise (R132, R42). With a store pending for the word a fetch that goes to the bus is
refused (D42); a write on the bus that is never acknowledged counts as pending, which is the model's
choice (log 36, DESIGN CHOICE). The cacheable clauses do not ask for SwC = 0: for swapped caches
they are the model's choice (log 34). -/
def Obligations.FetchReadsMemory : Prop :=
  (∀ s : State, s.cp0.status.kuc = false → s.pc.extractLsb' 0 2 = 0 →
    (s.pc.extractLsb' 29 3 = 5 → s.address s.pc .fetch (s.pc.extractLsb' 0 2 == 0) =
      .ok (unmappedAddress s.pc, false) s) ∧
    (s.pc.extractLsb' 29 3 = 4 → s.address s.pc .fetch (s.pc.extractLsb' 0 2 == 0) =
      .ok (unmappedAddress s.pc, true) s)) ∧
  (∀ (s : State) (w : WordAddr) (w0 w1 w2 w3 : Word),
    blockWord w (w.extractLsb' 0 2) = w ∧ s.busWord .memory w = Memory.readWord s.mem w ∧
    s.busWord (.device w0 w1 w2 w3) (blockWord w 0) = w0 ∧
    s.busWord (.device w0 w1 w2 w3) (blockWord w 1) = w1 ∧
    s.busWord (.device w0 w1 w2 w3) (blockWord w 2) = w2 ∧
    s.busWord (.device w0 w1 w2 w3) (blockWord w 3) = w3) ∧
  ∀ (s u : State) (pa : Word) (w : WordAddr) (c : Bool),
    s.address s.pc .fetch (s.pc.extractLsb' 0 2 == 0) = .ok (pa, c) u → w = wordAddress pa →
    u = s.withStatus { s.cp0.status with ts := u.cp0.status.ts } ∧
    u.noteFetch c = { u with
      seq := { s.seq with prevFetchCached := s.seq.fetchCached, fetchCached := c } } ∧
    ¬ ((u.fetchLookup w).hit = true ∧ (u.fetchLookup w).parityError = true) ∧
    (c = false →
      (u.storePending w = true → s.fetchWord = .refused .fetchPendingStore) ∧
      (u.storePending w = false →
        (u.seq.busBlocked = true → s.fetchWord = .never (u.noteFetch false)) ∧
        (u.seq.busBlocked = false →
          (u.env.fetchReply = .memory →
            s.fetchWord = .ok (u.memoryWord w) (u.noteFetch false).drain) ∧
          (∀ w0 w1 w2 w3, u.env.fetchReply = .device w0 w1 w2 w3 →
            s.fetchWord = .ok (u.busWord (.device w0 w1 w2 w3) w) (u.noteFetch false).drain) ∧
          (u.env.fetchReply = .busError → s.fetchWord = .exc .ibe (u.noteFetch false).drain) ∧
          (u.env.fetchReply = .noAnswer → s.fetchWord = .never (u.noteFetch false).drain)))) ∧
    (c = true →
      (u.seq.cacheCtlWindow = true → s.fetchWord = .refused .cacheControlCached) ∧
      (u.seq.cacheCtlWindow = false → u.awaitingFlush = true →
        s.fetchWord = .refused .cacheNotFlushed) ∧
      (u.seq.cacheCtlWindow = false → u.awaitingFlush = false →
        ((u.fetchLookup w).hit = true →
          s.fetchWord = .ok (u.fetchLookup w).word (u.noteFetch true)) ∧
        ((u.fetchLookup w).hit = false →
          (u.storePending w = true → s.fetchWord = .refused .fetchPendingStore) ∧
          (u.storePending w = false →
            (∀ r, u.seq.busBlocked = false → u.env.fetchReply = r → r ≠ .busError →
              r ≠ .noAnswer →
              ∃ t, s.fetchWord = .ok (u.busWord r w) t ∧ t.mem = u.mem ∧
                t.writeBuffer = u.writeBuffer ∧ AccessKeeps (u.noteFetch true) t ∧
                (∀ k : BitVec 2, (t.fetchLookup (blockWord w k)).hit = true ∧
                  (t.fetchLookup (blockWord w k)).word = u.busWord r (blockWord w k)) ∧
                (u.cp0.status.swc = false → t.dcache = u.dcache) ∧
                KeepsOtherEntries u t u.fetchSide (blockWords w) ∧
                t.cp0.status = { u.cp0.status with
                  pe := u.cp0.status.pe || (u.fetchLookup w).parityError }) ∧
            (u.seq.busBlocked = false → u.env.fetchReply = .busError →
              ∃ t, s.fetchWord = .exc .ibe t ∧ t.mem = u.mem ∧ t.writeBuffer = u.writeBuffer ∧
                AccessKeeps (u.noteFetch true) t ∧ RefillAborted u t u.fetchSide (blockWords w) ∧
                t.cp0.status = { u.cp0.status with
                  pe := u.cp0.status.pe || (u.fetchLookup w).parityError }) ∧
            (u.seq.busBlocked = true ∨ u.env.fetchReply = .noAnswer →
              ∃ t, s.fetchWord = .never t ∧ t.mem = u.mem ∧ t.writeBuffer = u.writeBuffer ∧
                AccessKeeps (u.noteFetch true) t ∧ KeepsCaches u t ∧
                t.cp0.status = { u.cp0.status with
                  pe := u.cp0.status.pe || (u.fetchLookup w).parityError })))))

/-- A step takes an enabled pending interrupt instead of the instruction, unless its data access
raises an exception (R98, R432, R440, D37). After sampling and the bus events, in a core that is
neither stuck nor halting: if IEc is set and Cause[15:8] AND Status[15:8] is not zero, and the
instruction at pc is not a load or store whose data access would raise an exception (decision D37),
the step is the entry of the Int exception at pc, the one entry of ExceptionEntry, and records no
address. That premise holds exactly when a word is fetched at pc, it decodes to a load or store (an
LWC1 or SWC1 with the FPA ready), and, after what the bus does between fetch and data access, its
address raises an exception or, for a load, the word access does. When it does, the step runs the
instruction and takes that exception, whatever interrupt is pending (D37, log 30). -/
def Obligations.StepTakesInterrupt : Prop :=
  (∀ s t : State,
    s.sample.env.reset = none → s.mode.triState = false → s.seq.waiting = false →
    s.sample.serveBus = .ok t → t.halting = false → t.cp0.status.iec = true →
    (causeWord t.cp0.cause t.interruptLines).extractLsb' 8 8 &&&
      (statusWord t.cp0.status).extractLsb' 8 8 ≠ 0 →
    t.dataExceptionAtPc = false →
    step s = t.raise .int ∧ EntersException t .int (step s) ∧ ∃ u, step s = .next u ∧ KeepsAddressRecords t u) ∧
  (∀ t : State, t.dataExceptionAtPc = true ↔
    ∃ (w : Word) (u : State) (i : Instr) (a : DataAccess),
      t.fetchWord = .ok w u ∧ decode w = .ok i ∧ dataAccess i = some a ∧
      (a.ofFpa = true → FpaReady u.serveData) ∧
      ((∃ (x : Exc) (v : State),
          u.serveData.address (u.serveData.effectiveAddress a.base a.offset) a.kind
            (a.width.aligned (u.serveData.effectiveAddress a.base a.offset)) = .exc x v) ∨
        (a.kind = .load ∧ ∃ (pa : Word) (c : Bool) (v : State) (x : Exc) (v' : State),
          u.serveData.address (u.serveData.effectiveAddress a.base a.offset) .load
            (a.width.aligned (u.serveData.effectiveAddress a.base a.offset)) = .ok (pa, c) v ∧
          v.loadWord (wordAddress pa) c = .exc x v'))) ∧
  (∀ (s t u : State) (w : Word) (i : Instr) (a : DataAccess),
    s.sample.env.reset = none → s.mode.triState = false → s.seq.waiting = false →
    s.sample.serveBus = .ok t → t.halting = false →
    t.fetchWord = .ok w u → decode w = .ok i → dataAccess i = some a →
    (a.ofFpa = true → FpaReady u.serveData) →
    (∀ (x : Exc) (v : State),
      u.serveData.address (u.serveData.effectiveAddress a.base a.offset) a.kind
        (a.width.aligned (u.serveData.effectiveAddress a.base a.offset)) = .exc x v →
      step s = exec i u.serveData ∧ step s = u.serveData.raise x) ∧
    (∀ (pa : Word) (c : Bool) (v : State) (x : Exc) (v' : State), a.kind = .load →
      u.serveData.address (u.serveData.effectiveAddress a.base a.offset) .load
        (a.width.aligned (u.serveData.effectiveAddress a.base a.offset)) = .ok (pa, c) v →
      v.loadWord (wordAddress pa) c = .exc x v' →
      step s = exec i u.serveData ∧ step s = v'.raise x))

/-- The interrupt lines: the pins, the FPA interrupt on the line FPInt selects, and what raises and
lowers it (R66, R342, R441, R442, R450, R455, D35). On a part with no FPA the six lines are the
pins. On a part with an FPA, outside the window after a Config write, line n is the FPA interrupt
where n is Config.FPInt, and the pin everywhere else. FCR31 asserts the FPA interrupt by E, or an
Exceptions bit whose TrapEnable bit is set. An operation that traps asserts it; an operation that
does not trap, though it loads Exceptions anew, leaves an asserted one asserted; after CTC1 to FCR31
it is what the value written asks for (log 28); Reset lowers it; and no instruction but CTC1 to
FCR31 ever lowers it, whether it completes, takes an exception or waits. -/
def Obligations.InterruptLines : Prop :=
  (∀ s : State, s.chip.hasFpa = false → s.interruptLines = s.env.int) ∧
  (∀ s : State, s.chip.hasFpa = true → s.seq.configWindow = 0 → s.cp0.config.fpInt.toNat < 6 →
    ∀ n, n < 6 → s.interruptLines.getLsbD n =
      if n = s.cp0.config.fpInt.toNat then s.fpaLine else s.env.int.getLsbD n) ∧
  (∀ s : State, (fpaInterrupt s.fcr31 = true ↔ FpTraps s s.fcr31.exceptions) ∧
    (fpaInterrupt s.fcr31 = true → s.fpaLine = true)) ∧
  (∀ (s : State) (e : FpExceptions),
    (FpTraps s e → (s.recordFp e).fpaLine = true) ∧
    (¬ FpTraps s e → (s.recordFp e).fpaLine = s.fpaLine)) ∧
  (∀ (s : State) (rt : Reg), FpaReady s → ∃ t, exec (.ctc1 rt 31) s = .next t ∧
    (t.fpaLine = true ↔ FpTraps t t.fcr31.exceptions)) ∧
  (∀ (chip : Chip) (m : ModeVector), (State.resetOf chip m).fpaLine = false) ∧
  (∀ (i : Instr) (s t : State), s.fpaLine = true → exec i s = .next t → (∀ rt, i ≠ .ctc1 rt 31) →
    t.fpaLine = true)

/-- A step with Reset asserted puts the machine in the reset state; memory is kept (R404, R482,
D14). If Reset is asserted with mode pins m, the step gives the reset state of the same part under m
with memory untouched and the write buffer empty (the undefined registers take the values of the
model's reset, log 42); that the condition latches then hold the sampled pins is the model's choice
(log 53). -/
def Obligations.StepResets : Prop :=
  ∀ (s : State) (m : ModeVector), s.sample.env.reset = some m →
    ∃ t, step s = .next t ∧ t.mem = s.mem ∧ t.writeBuffer = [] ∧
      t = { State.resetOf s.chip m with
            mem := s.mem, env := s.sample.env, inputs := s.sample.inputs,
            seq := { resetSequencing m with
              condLatch0 := s.sample.env.brCond0, condLatch2 := s.sample.env.brCond2,
              condLatch3 := s.sample.env.brCond3, draws := s.seq.draws + 1 } }

/-- The Halt stall, its end when an interrupt line is asserted, and the stuck core (R472, R485,
R545, R548, D36). With no reset asserted: under Tri-State, or waiting for a bus transaction that
never ends, a step changes nothing but the free-value counter. While the core halts and no interrupt
line is asserted, a step changes nothing after the bus events but the mark of the stall and that
counter. When a line is asserted, whatever the masks, waking clears Config.Halt (decision D36, log
17; the old Config of a running window too) and changes nothing else, and the instruction at pc
runs, or the interrupt is taken when it is enabled. -/
def Obligations.StepHalts : Prop :=
  ∀ s t : State, s.sample.env.reset = none →
    ((s.mode.triState = true ∨ s.seq.waiting = true) →
      step s = .next { s.sample with seq := { s.seq with draws := s.seq.draws + 1 } }) ∧
    (s.mode.triState = false → s.seq.waiting = false → s.sample.serveBus = .ok t →
      t.halting = true →
      (t.interruptLines = 0 →
        step s = .next { t with seq := { t.seq with halted := true, draws := t.seq.draws + 1 } }) ∧
      (t.interruptLines ≠ 0 →
        t.wake = { t with
          cp0 := { t.cp0 with config := { t.cp0.config with halt := false } }
          seq := { t.seq with
            halted := false, configOld := { t.seq.configOld with halt := false } } } ∧
        (t.wake.takesInterrupt = true →
          step s = t.wake.raise .int ∧ EntersException t.wake .int (step s)) ∧
        (∀ (w : Word) (u : State) (i : Instr), t.wake.takesInterrupt = false →
          t.wake.fetchWord = .ok w u → decode w = .ok i → step s = exec i u.serveData)))

/-- r0 reads zero and discards writes (R21, R185). General register r0 reads zero as stored, as an
operand (even with a load pending), and as a merge operand; a write to it changes nothing; a load
result for it is dropped. -/
def Obligations.RegisterZero : Prop :=
  ∀ (s : State) (v : Word), s.gprValue 0 = 0 ∧ s.readReg 0 = 0 ∧ s.readMerged 0 = 0 ∧
    s.writeReg 0 v = s ∧ s.deferLoad 0 v = s

/-- Load delays: an early read gives the old or the new value, LWL and LWR the new one (D5); how
long the old C stays (R171, R366, R367, R500, R506, D5). With a load of r pending: an operand read
of r gives the loaded or the old value and no other register is affected; LWL and LWR merge into the
loaded value. With LWC1 or MTC1 to f pending, an FGR read of f gives the new or the old value and no
other FGR is affected. Right after a compare or CTC1, BC1T and BC1F see the new or the old C;
otherwise FCR31.C. The old C stays pending for one instruction: only a compare, or CTC1 to FCR31,
that completes leaves one pending, the C from before it; after any other instruction, and after one
that takes an exception (R500), none is pending (an instruction that waits for the bus has not
ended). (The free choice is decision D5, logs 7 and 8.) -/
def Obligations.LoadDelay : Prop :=
  (∀ (s : State) (r q : Reg) (v : Word), s.seq.loadPending = some (r, v) → r ≠ 0 →
    (s.readReg r = v ∨ s.readReg r = s.gprValue r) ∧ s.readMerged r = v ∧
    (q ≠ r → s.readReg q = s.gprValue q ∧ s.readMerged q = s.gprValue q)) ∧
  (∀ (s : State) (r q : Reg) (v : Word), s.seq.fpLoadPending = some (r, v) →
    (s.readFgr r = v ∨ s.readFgr r = s.fgrValue r) ∧ (q ≠ r → s.readFgr q = s.fgrValue q)) ∧
  (∀ (s : State) (old : Bool), s.seq.condPending = some old →
    s.fpaCondition = old ∨ s.fpaCondition = s.fcr31.c) ∧
  (∀ (i : Instr) (s t : State), exec i s = .next t → t.seq.waiting = false →
    t.seq.condPending ≠ none →
    t.seq.condPending = some s.fcr31.c ∧ t.pc = s.nextPc ∧
      ((opField (encode i) = 0x11 ∧ (rsField (encode i) = 16 ∨ rsField (encode i) = 17) ∧
        48 ≤ (functField (encode i)).toNat) ∨ ∃ rt, i = .ctc1 rt 31)) ∧
  (∀ (s : State) (r : Reg),
    (s.seq.loadPending = none → s.readReg r = s.gprValue r) ∧
    (s.seq.fpLoadPending = none → s.readFgr r = s.fgrValue r) ∧
    (s.seq.condPending = none → s.fpaCondition = s.fcr31.c))

/-- The bit positions of the CP0 registers and of FCR31 (R29, R30, R31, R33, R35, R37, R50, R53,
R64). Each field of Index, Random, EntryLo, EntryHi, Context, Config, Status, Cause and FCR31 stands
at the bits the spec gives it, and every reserved bit of a CP0 register reads zero. -/
def Obligations.RegisterLayouts : Prop :=
  (∀ (p : Bool) (x : BitVec 6), indexWord ⟨p, x⟩ = (bit p).setWidth 32 <<< 31 ||| x.setWidth 32 <<< 8) ∧
  (∀ x : BitVec 6, randomWord x = x.setWidth 32 <<< 8) ∧
  (∀ x : EntryLo, entryLoWord x = x.pfn.setWidth 32 <<< 12 ||| (bit x.n).setWidth 32 <<< 11 |||
    (bit x.d).setWidth 32 <<< 10 ||| (bit x.v).setWidth 32 <<< 9 ||| (bit x.g).setWidth 32 <<< 8) ∧
  (∀ x : EntryHi, entryHiWord x = x.vpn.setWidth 32 <<< 12 ||| x.pid.setWidth 32 <<< 6) ∧
  (∀ x : ContextReg, contextWord x = x.pteBase.setWidth 32 <<< 21 ||| x.badVpn.setWidth 32 <<< 2) ∧
  (∀ (c : Chip) (x : ConfigReg), configWord c x = (bit x.lock).setWidth 32 <<< 31 |||
    (bit x.slowBus).setWidth 32 <<< 30 ||| (bit x.dbRefill).setWidth 32 <<< 29 |||
    x.fpInt.setWidth 32 <<< 26 ||| (bit x.halt).setWidth 32 <<< 25 ||| (bit x.rf).setWidth 32 <<< 24 |||
    (bit x.ac).setWidth 32 <<< 23 ||| (bit c.configRevA).setWidth 32 <<< 22) ∧
  (∀ x : StatusReg, statusWord x = x.cu.setWidth 32 <<< 28 ||| (bit x.re).setWidth 32 <<< 25 |||
    (bit x.bev).setWidth 32 <<< 22 ||| (bit x.ts).setWidth 32 <<< 21 ||| (bit x.pe).setWidth 32 <<< 20 |||
    (bit x.cm).setWidth 32 <<< 19 ||| (bit x.pz).setWidth 32 <<< 18 ||| (bit x.swc).setWidth 32 <<< 17 |||
    (bit x.isc).setWidth 32 <<< 16 ||| x.im.setWidth 32 <<< 8 ||| (bit x.kuo).setWidth 32 <<< 5 |||
    (bit x.ieo).setWidth 32 <<< 4 ||| (bit x.kup).setWidth 32 <<< 3 ||| (bit x.iep).setWidth 32 <<< 2 |||
    (bit x.kuc).setWidth 32 <<< 1 ||| (bit x.iec).setWidth 32) ∧
  (∀ (x : CauseReg) (ip : BitVec 6), causeWord x ip = (bit x.bd).setWidth 32 <<< 31 |||
    x.ce.setWidth 32 <<< 28 ||| ip.setWidth 32 <<< 10 ||| x.sw.setWidth 32 <<< 8 |||
    x.excCode.setWidth 32 <<< 2) ∧
  (∀ (f : Word) (x : Fcr31), fcr31Word f x &&& 0x0083ffff#32 = (bit x.c).setWidth 32 <<< 23 |||
    x.exceptions.setWidth 32 <<< 12 ||| x.enables.setWidth 32 <<< 7 ||| x.sticky.setWidth 32 <<< 2 |||
    x.rm.setWidth 32)

/-- Memory as words with lanes, the write buffer, and what the bus and its masters do to both (R81,
R82, R120, R121, R123, R134, R548, R551, R560, R562, R563, R565). Lane k of a memory word is bits
8k+7 to 8k, whatever the byte order; a write changes the enabled lanes of its word only. Byte
address 4w is the most significant byte of the word under big-endian, the least significant under
little-endian. Posting a store changes what memory reads as in exactly its lanes; retiring or
draining changes no byte as the CPU reads it; draining empties the buffer; the oldest entry goes
first. Up to four stores wait; a write on the bus holds no slot, so that a store behind one never
acknowledged is posted while fewer than four wait, and waits when four do (R551). On the bus that
write is stored, or acknowledged and not stored, or never acknowledged, and then nothing goes out
any more. A master's write changes memory and neither cache nor buffer. Under a coherent grant,
taken when the option is on, pending reads and writes go out first, and a write with IvdReq makes
every access to that data-cache entry miss, no data word and no other entry changing (said while no
flush is outstanding in that cache); with SwC = 1 it is refused (D44, log 37). With the option off
the grant is an ordinary one. -/
def Obligations.MemoryBytesAndPostedStores : Prop :=
  (∀ (s : State) (w : WordAddr), s.memoryWord w = s.wordAt (4 * w.toNat)) ∧
  (∀ (m : List Host.Cell) (w v : WordAddr) (l : Lanes) (d : Word) (k : Nat),
    (k < 4 → (Memory.readWord m w).extractLsb' (8 * k) 8 = Memory.read m (4 * w.toNat + k)) ∧
    Memory.readWord (Memory.writeLanes m w l d) w = mergeLanes l (Memory.readWord m w) d ∧
    (v ≠ w → Memory.readWord (Memory.writeLanes m w l d) v = Memory.readWord m v)) ∧
  (∀ (s : State) (e : PendingStore), StoresLanes s (s.post e) e.addr e.lanes e.data ∧
    (s.waitingStores.length ≤ 4 → (s.post e).waitingStores.length ≤ 4) ∧
    (s.waitingStores.length < 4 → (s.post e).mem = s.mem ∧
      (s.post e).writeBuffer = s.writeBuffer ++ [e] ∧ s.postStore e = .ok () (s.post e)) ∧
    (s.seq.busBlocked = false → s.waitingStores = s.writeBuffer ∧
      s.postStore e = .ok () (s.post e)) ∧
    (s.seq.busBlocked = true → s.waitingStores = s.writeBuffer.tail ∧
      (4 ≤ s.waitingStores.length → s.postStore e = .never s))) ∧
  (∀ s : State, KeepsMemory s s.retireWrite ∧ KeepsMemory s s.drain ∧ s.drain.writeBuffer = []) ∧
  (∀ (s : State) (e : PendingStore) (rest : List PendingStore), s.writeBuffer = e :: rest →
    s.retireWrite.writeBuffer = rest ∧
    s.retireWrite.mem = Memory.writeLanes s.mem e.addr e.lanes e.data) ∧
  (∀ (s : State) (e : BusEvent), s.seq.busBlocked = true → s.busEvent e = s) ∧
  (∀ s : State, s.seq.busBlocked = false →
    s.busEvent (.write .stored) = s.retireWrite ∧
    s.busEvent (.write .ignored) = { s with writeBuffer := s.writeBuffer.tail } ∧
    (s.writeBuffer = [] → s.busEvent (.write .noAnswer) = s) ∧
    (s.writeBuffer ≠ [] →
      s.busEvent (.write .noAnswer) = { s with seq := { s.seq with busBlocked := true } }) ∧
    s.busEvent (.dma []) = s ∧
    (∀ (d : DmaWrite) (ds : List DmaWrite), s.busEvent (.dma (d :: ds)) =
      { s with mem := Memory.writeLanes s.mem d.addr d.lanes d.data }.busEvent (.dma ds))) ∧
  (∀ (s : State) (d : DmaWrite) (ds : List DmaWrite), s.seq.busBlocked = false →
    s.mode.coherentDmaEn = true → s.readBuffer = [] →
    (d.invalidate = true → s.cp0.status.swc = true →
      s.coherentGrant (d :: ds) = .error .coherentInvalidateSwapped) ∧
    ((d.invalidate = false ∨ s.cp0.status.swc = false) →
      ∃ t, s.coherentGrant [d] = .ok t ∧ s.coherentGrant (d :: ds) = t.coherentGrant ds ∧
        t.readBuffer = [] ∧ t.writeBuffer = [] ∧ t.icache = s.icache ∧
        t.mem = Memory.writeLanes s.settledMemory d.addr d.lanes d.data ∧
        (d.invalidate = false → t.dcache = s.dcache) ∧
        (d.invalidate = true → s.dcache.tagsUndefined = false →
          KeepsOtherEntries s t .data [d.addr] ∧ ∀ n i, t.dcache.dataAt n i = s.dcache.dataAt n i) ∧
        (d.invalidate = true → ∀ w,
          tagIndex .data s.acInForce w = tagIndex .data s.acInForce d.addr →
          (t.dataLookup w).hit = false))) ∧
  (∀ (s : State) (ds : List DmaWrite), s.mode.coherentDmaEn = false →
    s.coherentGrant ds = .ok (s.busEvent (.dma ds)))

/-- The byte lanes of every access width, in both byte orders (Table 2.3) (R86). Word, halfword and
byte accesses use the lanes of Table 2.3, the tri-bytes are those of LWL/SWL and LWR/SWR; in general
the byte at byte address 4w+j is lane 3-j big-endian and lane j little-endian. -/
def Obligations.AccessLanes : Prop :=
  (∀ (e : Bool) (va : Word), Width.word.lanes e va = 0b1111) ∧
  (∀ va : Word,
    (va.extractLsb' 0 2 = 0 → Width.half.lanes true va = 0b1100 ∧ Width.half.lanes false va = 0b0011 ∧
      Width.byte.lanes true va = 0b1000 ∧ Width.byte.lanes false va = 0b0001 ∧
      lanesUp (byteLane true (va + 2)) = 0b1110 ∧ lanesDown (byteLane false (va + 2)) = 0b0111) ∧
    (va.extractLsb' 0 2 = 1 →
      Width.byte.lanes true va = 0b0100 ∧ Width.byte.lanes false va = 0b0010 ∧
      lanesDown (byteLane true va) = 0b0111 ∧ lanesUp (byteLane false va) = 0b1110) ∧
    (va.extractLsb' 0 2 = 2 → Width.half.lanes true va = 0b0011 ∧ Width.half.lanes false va = 0b1100 ∧
      Width.byte.lanes true va = 0b0010 ∧ Width.byte.lanes false va = 0b0100) ∧
    (va.extractLsb' 0 2 = 3 →
      Width.byte.lanes true va = 0b0001 ∧ Width.byte.lanes false va = 0b1000)) ∧
  (∀ (w : WordAddr) (j : Nat), j < 4 →
    laneAddress true w (3 - j) = 4 * w.toNat + j ∧ laneAddress false w j = 4 * w.toNat + j)

/-- kseg0 and kseg1: the low 512 megabytes, cached and uncached (R102, R103). For every kind of
access and on every part: an address of kseg0 (0x80000000 to 0x9fffffff) translates to itself AND
0x1fffffff, cacheable; an address of kseg1 (0xa0000000 to 0xbfffffff) translates to itself AND
0x1fffffff, uncacheable, and a load or store there in normal operation reads and changes neither
cache. -/
def Obligations.UnmappedSegments : Prop :=
  (∀ (s : State) (va : Word) (k : AccessKind), 0x80000000 ≤ va.toNat → va.toNat ≤ 0x9fffffff →
    s.translate va k = .ok (va &&& 0x1fffffff, true) s) ∧
  (∀ (s : State) (va : Word) (k : AccessKind), 0xa0000000 ≤ va.toNat → va.toNat ≤ 0xbfffffff →
    s.translate va k = .ok (va &&& 0x1fffffff, false) s) ∧
  (∀ (s : State) (w : WordAddr), s.cp0.status.isc = false →
    (s.loadWord w false = s.readUncached w) ∧
    (∀ (l : Lanes) (v : Word), s.seq.busBlocked = false →
      ∃ t, s.storeWord w false l v = .ok () t) ∧
    (∀ (l : Lanes) (v : Word) (t : State), s.storeWord w false l v = .ok () t → KeepsCaches s t) ∧
    (∀ (v : Word) (t : State), s.readUncached w = .ok v t → KeepsCaches s t) ∧
    (∀ (v : Word) (t : State), s.fetchUncached w = .ok v t → KeepsCaches s t))

/-- Base versions: kuseg is offset by 0x40000000, kseg2 is the identity; their upper megabytes by
the model's choice (R104, R105, R106). On a part with no TLB, for every kind of access: an address
of kuseg translates to itself plus 0x40000000, and an address of kseg2 to itself; both cacheable,
with no exception. The upper megabyte of either segment (0x7ff00000 to 0x7fffffff, 0xfff00000 to
0xffffffff) is outside the specification (R106, U17): that it translates like the rest of its
segment is the model's choice (log 40, DEDUCED). -/
def Obligations.BaseVersionMapping : Prop :=
  ∀ (s : State) (va : Word) (k : AccessKind), s.chip.hasTlb = false →
    (va.toNat ≤ 0x7fffffff →
      ∃ pa : Word, s.translate va k = .ok (pa, true) s ∧ pa.toNat = va.toNat + 0x40000000 ∧
        pa.extractLsb' 0 30 = va.extractLsb' 0 30) ∧
    (0xc0000000 ≤ va.toNat → s.translate va k = .ok (va, true) s)

/-- TLB translation: match, miss, invalid, modified, hit; two matches shut the TLB down (R108, R109,
R110, R111, R112, D29). On a part with a TLB that is not shut down, for an address of kuseg or
kseg2. An entry matches when the VPN agrees and it is global or the process agrees. No match: TLBL
for a fetch or a load, TLBS for a store, through the UTLB vector exactly for kuseg. One match: V = 0
gives TLBL or TLBS through the general vector; a store with D = 0 gives Mod; else PFN above the page
offset, cacheable iff N = 0. Two matches: TS becomes 1 and the reference goes on with a free
translation (D29, log 20); with TS set a reference is refused. -/
def Obligations.TlbTranslation : Prop :=
  ∀ (s : State) (va : Word) (k : AccessKind), s.chip.hasTlb = true →
    (va.getLsbD 31 = false ∨ va.extractLsb' 30 2 = 3) →
    (s.cp0.status.ts = true → s.translate va k = .refused .tlbShutdown) ∧
    (s.cp0.status.ts = false →
      ((∀ i, ¬ ((s.tlbEntry i).hi.vpn = va.extractLsb' 12 20 ∧
          ((s.tlbEntry i).lo.g = true ∨ (s.tlbEntry i).hi.pid = s.cp0.entryHi.pid))) →
        s.translate va k =
          .exc (if k = .store then .tlbs va (!va.getLsbD 31) else .tlbl va (!va.getLsbD 31)) s) ∧
      (∀ i, (∀ j, ((s.tlbEntry j).hi.vpn = va.extractLsb' 12 20 ∧
          ((s.tlbEntry j).lo.g = true ∨ (s.tlbEntry j).hi.pid = s.cp0.entryHi.pid)) ↔ j = i) →
        ((s.tlbEntry i).lo.v = false →
          s.translate va k = .exc (if k = .store then .tlbs va false else .tlbl va false) s) ∧
        ((s.tlbEntry i).lo.v = true → k = .store → (s.tlbEntry i).lo.d = false →
          s.translate va k = .exc (.mod va) s) ∧
        ((s.tlbEntry i).lo.v = true → (k ≠ .store ∨ (s.tlbEntry i).lo.d = true) →
          s.translate va k =
            .ok ((s.tlbEntry i).lo.pfn ++ va.extractLsb' 0 12, !(s.tlbEntry i).lo.n) s)) ∧
      (∀ i j, i ≠ j →
        (s.tlbEntry i).maps (va.extractLsb' 12 20) s.cp0.entryHi.pid = true →
        (s.tlbEntry j).maps (va.extractLsb' 12 20) s.cp0.entryHi.pid = true →
        ∃ p t, s.translate va k = .ok p t ∧ t.cp0.status.ts = true))

/-- Address errors: misalignment, and any Kernel address in User mode (R84, R98, R99, R101, R256,
R408). A misaligned access, and any access in User mode to an address with bit 31 set, is an address
error of the access's kind (AdEL for fetch and load, AdES for store) and nothing else happens, the
fetch at such a pc included; an aligned access in Kernel mode, or to kuseg, is translated. Halfwords
are aligned at multiples of 2, words at multiples of 4, bytes anywhere. -/
def Obligations.AddressErrors : Prop :=
  (∀ (s : State) (va : Word) (k : AccessKind), s.address va k false = .exc (k.addressError va) s) ∧
  (∀ (s : State) (va : Word) (k : AccessKind) (a : Bool), s.cp0.status.kuc = true →
    0x80000000 ≤ va.toNat → s.address va k a = .exc (k.addressError va) s) ∧
  (∀ (s : State) (va : Word) (k : AccessKind), (s.cp0.status.kuc = false ∨ va.toNat < 0x80000000) →
    s.address va k true = s.translate va k) ∧
  (∀ va : Word, AccessKind.fetch.addressError va = .adel va ∧
    AccessKind.load.addressError va = .adel va ∧ AccessKind.store.addressError va = .ades va ∧
    (Width.byte.aligned va = true) ∧ (Width.half.aligned va = true ↔ va.toNat % 2 = 0) ∧
    (Width.word.aligned va = true ↔ va.toNat % 4 = 0)) ∧
  (∀ s : State, (s.pc.toNat % 4 ≠ 0 ∨ (s.cp0.status.kuc = true ∧ 0x80000000 ≤ s.pc.toNat)) →
    s.fetchWord = .exc (.adel s.pc) s)

/-- Exception entry: what every exception but Reset saves, sets and leaves alone (R171, R401, R420,
R424, R425, R500). For every state and every exception: a pending load, LWC1 or MTC1 is delivered
(R420 step 1 infers it for loads; for all of them it is the model's reading, log 49, DEDUCED); EPC
is the pc, or pc - 4 in a delay slot, and BD says which; ExcCode is the value of R401, 0 for Int to
12 for Ovf; CE is z for CpU; the address records follow R424 and R425; the KU/IE bits are pushed;
the pc goes to the vector, in no delay slot; the windows of a compare or CTC1 and of MTC0 to a TLB
register close (R500). By the model's choice the window of R509 closes too and the notes of how
instructions were fetched stay (log 56, DESIGN CHOICE), and the Config window stays as it is (log
16, DESIGN CHOICE). Nothing else of the sequencing state changes but the condition latches and the
counter of free values; the other registers, the rest of Status, Cause.Sw, the TLB, memory and the
caches are untouched. (A step enters an interrupt, and the exception of its fetch, by this same
entry: StepTakesInterrupt, StepRunsDecodedInstruction.) -/
def Obligations.ExceptionEntry : Prop :=
  ∀ (s : State) (x : Exc),
    EntersException s x (s.raise x) ∧
    ∃ t, s.raise x = .next t ∧ t.fcr31 = s.fcr31 ∧ t.fpaHeld = s.fpaHeld ∧
      t.seq = { s.seq with
        inDelaySlot := false, loadPending := none, fpLoadPending := none, condPending := none,
        cp0WriteWindow := false, cacheCtlWindow := false, condLatch0 := t.seq.condLatch0,
        condLatch2 := t.seq.condLatch2, condLatch3 := t.seq.condLatch3, draws := t.seq.draws } ∧
      (x = .int → t.cp0.cause.excCode = 0) ∧
      (∀ va, x = .mod va → t.cp0.cause.excCode = 1) ∧
      (∀ va r, x = .tlbl va r → t.cp0.cause.excCode = 2) ∧
      (∀ va r, x = .tlbs va r → t.cp0.cause.excCode = 3) ∧
      (∀ va, x = .adel va → t.cp0.cause.excCode = 4) ∧
      (∀ va, x = .ades va → t.cp0.cause.excCode = 5) ∧
      (x = .ibe → t.cp0.cause.excCode = 6) ∧ (x = .dbe → t.cp0.cause.excCode = 7) ∧
      (x = .sys → t.cp0.cause.excCode = 8) ∧ (x = .bp → t.cp0.cause.excCode = 9) ∧
      (x = .ri → t.cp0.cause.excCode = 10) ∧ (∀ z, x = .cpu z → t.cp0.cause.excCode = 11) ∧
      (x = .ovf → t.cp0.cause.excCode = 12) ∧
      (∀ va, x = .adel va ∨ x = .ades va → t.cp0.badVAddr = va) ∧
      (∀ va r, x = .tlbl va r ∨ x = .tlbs va r ∨ x = .mod va →
        t.cp0.badVAddr = va ∧ t.cp0.context.badVpn = va.extractLsb' 12 19 ∧
        t.cp0.entryHi.vpn = va.extractLsb' 12 20) ∧
      ((∀ va r, x ≠ .adel va ∧ x ≠ .ades va ∧ x ≠ .tlbl va r ∧ x ≠ .tlbs va r ∧ x ≠ .mod va) →
        KeepsAddressRecords s t)

/-- What an address error and a TLB exception record (R424, R425). After AdEL or AdES: BadVAddr is
the whole address, PTEBase and PID are unchanged, and on a base version so is EntryHi. After TLBL,
TLBS or Mod: BadVAddr is the address, BadVPN its bits 30:12, EntryHi.VPN its bits 31:12; PID,
EntryLo and Index are unchanged. -/
def Obligations.AddressRecords : Prop :=
  (∀ (s : State) (va : Word) (x : Exc), x = .adel va ∨ x = .ades va →
    (s.takeException x).cp0.badVAddr = va ∧
    (s.takeException x).cp0.context.pteBase = s.cp0.context.pteBase ∧
    (s.takeException x).cp0.entryHi.pid = s.cp0.entryHi.pid ∧
    (s.chip.hasTlb = false → (s.takeException x).cp0.entryHi = s.cp0.entryHi)) ∧
  (∀ (s : State) (va : Word) (r : Bool) (x : Exc), x = .tlbl va r ∨ x = .tlbs va r ∨ x = .mod va →
    (s.takeException x).cp0.badVAddr = va ∧
    (contextWord (s.takeException x).cp0.context).extractLsb' 2 19 = va.extractLsb' 12 19 ∧
    (entryHiWord (s.takeException x).cp0.entryHi).extractLsb' 12 20 = va.extractLsb' 12 20 ∧
    (s.takeException x).cp0.entryHi.pid = s.cp0.entryHi.pid ∧
    (s.takeException x).cp0.entryLo = s.cp0.entryLo ∧
    (s.takeException x).cp0.index = s.cp0.index ∧
    8 ≤ (s.takeException x).cp0.random.toNat)

/-- The KU/IE push of exception entry, bit by bit (R421). Exception entry moves Status bits 3:0 to
bits 5:2 and clears bits 1:0; bits 31:6 are unchanged. A pop afterwards restores bits 3:0. -/
def Obligations.StatusPush : Prop :=
  ∀ (s : State) (x : Exc),
    (statusWord (s.takeException x).cp0.status).extractLsb' 0 6 =
      (statusWord s.cp0.status).extractLsb' 0 4 ++ (0#2) ∧
    (statusWord (s.takeException x).cp0.status).extractLsb' 6 26 =
      (statusWord s.cp0.status).extractLsb' 6 26 ∧
    (statusWord (s.takeException x).cp0.status.pop).extractLsb' 0 4 =
      (statusWord s.cp0.status).extractLsb' 0 4

/-- The exception vectors, virtual and physical, and when the UTLB vector is used (R403). Reset goes
to 0xbfc00000; a UTLB miss to 0x80000000 or, with BEV, 0xbfc00100; every other exception to
0x80000080 or 0xbfc00180. The vectors with BEV = 0 are unmapped and cacheable, those with BEV = 1
unmapped and uncacheable, at the physical addresses of the table. Only a TLB miss (not an invalid
entry) of a kuseg address uses the UTLB vector. -/
def Obligations.ExceptionVectors : Prop :=
  (∀ (chip : Chip) (m : ModeVector), (State.resetOf chip m).pc = 0xbfc00000 ∧
    (State.resetOf chip m).cp0.status.bev = true) ∧
  (∀ (x : Exc) (va : Word), x = .tlbl va true ∨ x = .tlbs va true →
    exceptionVector x false = 0x80000000 ∧ exceptionVector x true = 0xbfc00100) ∧
  (∀ x : Exc, (∀ va, x ≠ .tlbl va true ∧ x ≠ .tlbs va true) →
    exceptionVector x false = 0x80000080 ∧ exceptionVector x true = 0xbfc00180) ∧
  (∀ s : State,
    s.translate 0x80000000 .fetch = .ok (0x00000000, true) s ∧
    s.translate 0x80000080 .fetch = .ok (0x00000080, true) s ∧
    s.translate 0xbfc00000 .fetch = .ok (0x1fc00000, false) s ∧
    s.translate 0xbfc00100 .fetch = .ok (0x1fc00100, false) s ∧
    s.translate 0xbfc00180 .fetch = .ok (0x1fc00180, false) s) ∧
  (∀ (s t : State) (va v : Word) (k : AccessKind), s.translate va k = .exc (.tlbl v true) t ∨
    s.translate va k = .exc (.tlbs v true) t → va.getLsbD 31 = false ∧
      ∀ i, (s.tlbEntry i).maps (va.extractLsb' 12 20) s.cp0.entryHi.pid = false)

/-- RFE pops the KU/IE stack and changes nothing else (R297, R460). RFE with CP0 usable completes:
Status bits 3:0 become the old bits 5:2, bits 31:4 are unchanged, every other CP0 register (but the
free-running Random), the TLB, the caches, memory and all other registers are unchanged, and
execution goes on in sequence. -/
def Obligations.ReturnFromException : Prop :=
  ∀ s : State, Cp0Ready s →
    SystemResult s (fun t =>
      (statusWord t.cp0.status).extractLsb' 0 4 = (statusWord s.cp0.status).extractLsb' 2 4 ∧
      (statusWord t.cp0.status).extractLsb' 4 28 = (statusWord s.cp0.status).extractLsb' 4 28 ∧
      t.cp0 = { s.cp0 with random := t.cp0.random, status := t.cp0.status } ∧
      t.tlb = s.tlb ∧ KeepsCaches s t) (exec .rfe s)

/-- ADDIU, SLTI, SLTIU, ANDI, ORI, XORI, LUI: result and frame (R190, R192, R193, R194, R195, R196,
R197, R198). Each completes in every state: rt receives the result (sign-extended immediate for
ADDIU, SLTI, SLTIU; zero-extended for ANDI, ORI, XORI; the immediate in the upper half for LUI),
nothing for r0; every other register, memory, caches, CP0 and FPA are unchanged. -/
def Obligations.AluImmediateResults : Prop :=
  ∀ (s : State) (rs rt : Reg) (imm : BitVec 16),
    RegisterResult s rt (s.readReg rs + imm.signExtend 32) (exec (.addiu rs rt imm) s) ∧
    RegisterResult s rt (if (s.readReg rs).toInt < imm.toInt then 1 else 0)
      (exec (.slti rs rt imm) s) ∧
    RegisterResult s rt (if (s.readReg rs).toNat < (imm.signExtend 32).toNat then 1 else 0)
      (exec (.sltiu rs rt imm) s) ∧
    RegisterResult s rt (s.readReg rs &&& imm.setWidth 32) (exec (.andi rs rt imm) s) ∧
    RegisterResult s rt (s.readReg rs ||| imm.setWidth 32) (exec (.ori rs rt imm) s) ∧
    RegisterResult s rt (s.readReg rs ^^^ imm.setWidth 32) (exec (.xori rs rt imm) s) ∧
    RegisterResult s rt (imm.setWidth 32 <<< 16) (exec (.lui rt imm) s)

/-- ADDU, SUBU, AND, OR, XOR, NOR, SLT, SLTU: result and frame (R190, R201, R203, R204, R205, R206,
R207, R208, R209). Each completes in every state: rd receives the result (comparisons give 1 or 0,
signed for SLT and unsigned for SLTU), nothing for r0; every other register, memory, caches, CP0 and
FPA are unchanged. -/
def Obligations.AluRegisterResults : Prop :=
  ∀ (s : State) (rs rt rd : Reg),
    RegisterResult s rd (s.readReg rs + s.readReg rt) (exec (.addu rs rt rd) s) ∧
    RegisterResult s rd (s.readReg rs - s.readReg rt) (exec (.subu rs rt rd) s) ∧
    RegisterResult s rd (s.readReg rs &&& s.readReg rt) (exec (.and rs rt rd) s) ∧
    RegisterResult s rd (s.readReg rs ||| s.readReg rt) (exec (.or rs rt rd) s) ∧
    RegisterResult s rd (s.readReg rs ^^^ s.readReg rt) (exec (.xor rs rt rd) s) ∧
    RegisterResult s rd (~~~(s.readReg rs ||| s.readReg rt)) (exec (.nor rs rt rd) s) ∧
    RegisterResult s rd (if (s.readReg rs).toInt < (s.readReg rt).toInt then 1 else 0)
      (exec (.slt rs rt rd) s) ∧
    RegisterResult s rd (if (s.readReg rs).toNat < (s.readReg rt).toNat then 1 else 0)
      (exec (.sltu rs rt rd) s)

/-- SLL, SRL, SRA, SLLV, SRLV, SRAV: result and frame (R210, R211, R212, R213, R214, R215, R216).
Each completes in every state: rd receives rt times 2^n modulo 2^32, rt divided by 2^n as an
unsigned number, or as a signed number rounding down, where n is shamt or the low five bits of rs;
nothing for r0; everything else is unchanged. -/
def Obligations.ShiftResults : Prop :=
  ∀ (s : State) (rs rt rd : Reg) (shamt : BitVec 5),
    RegisterResult s rd (BitVec.ofNat 32 ((s.readReg rt).toNat * 2 ^ shamt.toNat))
      (exec (.sll rt rd shamt) s) ∧
    RegisterResult s rd (BitVec.ofNat 32 ((s.readReg rt).toNat / 2 ^ shamt.toNat))
      (exec (.srl rt rd shamt) s) ∧
    RegisterResult s rd (BitVec.ofInt 32 ((s.readReg rt).toInt.fdiv (2 ^ shamt.toNat)))
      (exec (.sra rt rd shamt) s) ∧
    RegisterResult s rd (BitVec.ofNat 32 ((s.readReg rt).toNat * 2 ^ ((s.readReg rs).toNat % 32)))
      (exec (.sllv rs rt rd) s) ∧
    RegisterResult s rd (BitVec.ofNat 32 ((s.readReg rt).toNat / 2 ^ ((s.readReg rs).toNat % 32)))
      (exec (.srlv rs rt rd) s) ∧
    RegisterResult s rd
      (BitVec.ofInt 32 ((s.readReg rt).toInt.fdiv (2 ^ ((s.readReg rs).toNat % 32))))
      (exec (.srav rs rt rd) s)

/-- ADD, ADDI, SUB: the exact result when it fits, the Ovf exception when it does not (R199). When
the exact signed result lies in -2^31 .. 2^31 - 1 the instruction completes with it; otherwise it
raises Ovf: no register is written, BadVAddr and the other address records are unchanged. The
sign-bit conditions of R199 say the same. -/
def Obligations.OverflowingArithmetic : Prop :=
  (∀ (s : State) (rs rt rd : Reg) (imm : BitVec 16),
    (-(2 ^ 31) ≤ (s.readReg rs).toInt + (s.readReg rt).toInt ∧
        (s.readReg rs).toInt + (s.readReg rt).toInt < 2 ^ 31 →
      RegisterResult s rd (BitVec.ofInt 32 ((s.readReg rs).toInt + (s.readReg rt).toInt))
        (exec (.add rs rt rd) s)) ∧
    (-(2 ^ 31) ≤ (s.readReg rs).toInt + imm.toInt ∧ (s.readReg rs).toInt + imm.toInt < 2 ^ 31 →
      RegisterResult s rt (BitVec.ofInt 32 ((s.readReg rs).toInt + imm.toInt))
        (exec (.addi rs rt imm) s)) ∧
    (-(2 ^ 31) ≤ (s.readReg rs).toInt - (s.readReg rt).toInt ∧
        (s.readReg rs).toInt - (s.readReg rt).toInt < 2 ^ 31 →
      RegisterResult s rd (BitVec.ofInt 32 ((s.readReg rs).toInt - (s.readReg rt).toInt))
        (exec (.sub rs rt rd) s)) ∧
    (¬ (-(2 ^ 31) ≤ (s.readReg rs).toInt + (s.readReg rt).toInt ∧
        (s.readReg rs).toInt + (s.readReg rt).toInt < 2 ^ 31) →
      EntersException s .ovf (exec (.add rs rt rd) s) ∧
        ∃ t, exec (.add rs rt rd) s = .next t ∧ KeepsAddressRecords s t ∧ KeepsFpa s t) ∧
    (¬ (-(2 ^ 31) ≤ (s.readReg rs).toInt + imm.toInt ∧ (s.readReg rs).toInt + imm.toInt < 2 ^ 31) →
      EntersException s .ovf (exec (.addi rs rt imm) s) ∧
        ∃ t, exec (.addi rs rt imm) s = .next t ∧ KeepsAddressRecords s t ∧ KeepsFpa s t) ∧
    (¬ (-(2 ^ 31) ≤ (s.readReg rs).toInt - (s.readReg rt).toInt ∧
        (s.readReg rs).toInt - (s.readReg rt).toInt < 2 ^ 31) →
      EntersException s .ovf (exec (.sub rs rt rd) s) ∧
        ∃ t, exec (.sub rs rt rd) s = .next t ∧ KeepsAddressRecords s t ∧ KeepsFpa s t)) ∧
  (∀ a b : Word,
    ((a.msb = b.msb ∧ (a + b).msb ≠ a.msb) ↔ ¬ (-(2 ^ 31) ≤ a.toInt + b.toInt ∧ a.toInt + b.toInt < 2 ^ 31)) ∧
    ((a.msb ≠ b.msb ∧ (a - b).msb = b.msb) ↔ ¬ (-(2 ^ 31) ≤ a.toInt - b.toInt ∧ a.toInt - b.toInt < 2 ^ 31)))

/-- MULT, MULTU, MFHI, MFLO, MTHI, MTLO: result and frame (R225, R226, R227, R230, R231, R232,
R233). Each completes in every state. MULT and MULTU leave the low and high words of the exact
product of rs and rt, signed or unsigned, in LO and HI; MFHI and MFLO copy HI or LO to rd (nothing
for r0); MTHI and MTLO copy rs to HI or LO and leave the other. Everything else is unchanged. -/
def Obligations.MultiplyAndHiLoResults : Prop :=
  ∀ (s : State) (rs rt rd : Reg),
    (∃ hi lo, HiLoResult s hi lo (exec (.mult rs rt) s) ∧
      (hi ++ lo : BitVec 64).toInt = (s.readReg rs).toInt * (s.readReg rt).toInt) ∧
    (∃ hi lo, HiLoResult s hi lo (exec (.multu rs rt) s) ∧
      (hi ++ lo : BitVec 64).toNat = (s.readReg rs).toNat * (s.readReg rt).toNat) ∧
    RegisterResult s rd s.hi (exec (.mfhi rd) s) ∧ RegisterResult s rd s.lo (exec (.mflo rd) s) ∧
    HiLoResult s (s.readReg rs) s.lo (exec (.mthi rs) s) ∧
    HiLoResult s s.hi (s.readReg rs) (exec (.mtlo rs) s)

/-- DIV and DIVU: quotient in LO, remainder in HI; open cases complete with unspecified values (D4)
(R228, R229, R235, D4). DIV with a non-zero divisor, not -2^31 by -1, leaves in LO the quotient
truncated toward zero and in HI the remainder, which has the sign of the dividend: how a signed
quotient is rounded and the sign of the remainder are what R228 marks as general knowledge, not in
the manual, and the model follows it there (log 12); DIVU with a non-zero divisor leaves floor
quotient and remainder. In the remaining cases the instruction completes with some HI and LO
(decision D4, log 12, DESIGN CHOICE). Everything else is unchanged. -/
def Obligations.DivideResults : Prop :=
  ∀ (s : State) (rs rt : Reg),
    (∀ q r : Int, (s.readReg rt).toInt ≠ 0 →
      ¬ ((s.readReg rs).toInt = -(2 ^ 31) ∧ (s.readReg rt).toInt = -1) →
      (s.readReg rs).toInt = q * (s.readReg rt).toInt + r → r.natAbs < (s.readReg rt).toInt.natAbs →
      (0 ≤ (s.readReg rs).toInt → 0 ≤ r) → ((s.readReg rs).toInt ≤ 0 → r ≤ 0) →
      HiLoResult s (BitVec.ofInt 32 r) (BitVec.ofInt 32 q) (exec (.div rs rt) s)) ∧
    (∀ q r : Nat, (s.readReg rs).toNat = q * (s.readReg rt).toNat + r →
      r < (s.readReg rt).toNat →
      HiLoResult s (BitVec.ofNat 32 r) (BitVec.ofNat 32 q) (exec (.divu rs rt) s)) ∧
    (∃ hi lo, HiLoResult s hi lo (exec (.div rs rt) s)) ∧
    (∃ hi lo, HiLoResult s hi lo (exec (.divu rs rt) s))

/-- J, JAL, JR, JALR: delay slot, target, link register (R146, R240, R242, R243, R244, R245, R255).
Outside a delay slot each completes: the instruction in sequence is next, as a delay slot, and after
it the target. The target of J and JAL is the 26-bit field times 4 in the 256-megabyte region of the
delay slot; of JR and JALR the register. JAL writes r31, JALR writes rd, with the address of the
jump plus 8 (r0 discards it), the source register being read first; nothing else changes. That the
region is the delay slot's (D9) and that the source is read before the link is written (D11) the
spec marks as its own decisions: they are the model's choice, log 11 (PRESUMED). -/
def Obligations.JumpResults : Prop :=
  ∀ (s : State) (rs rd : Reg) (target : BitVec 26), s.seq.inDelaySlot = false →
    TransferResult s (some (((s.pc + 4#32) &&& 0xf0000000#32) ||| (target.setWidth 32 <<< 2)))
      s.readMerged (exec (.j target) s) ∧
    TransferResult s (some (((s.pc + 4#32) &&& 0xf0000000#32) ||| (target.setWidth 32 <<< 2)))
      (fun r => if r = 31 then s.pc + 8 else s.readMerged r) (exec (.jal target) s) ∧
    TransferResult s (some (s.readReg rs)) s.readMerged (exec (.jr rs) s) ∧
    TransferResult s (some (s.readReg rs))
      (fun r => if r = rd ∧ r ≠ 0 then s.pc + 8 else s.readMerged r) (exec (.jalr rs rd) s)

/-- The eight CPU branches: condition, target, delay slot, link register (R240, R246, R247, R248,
R249, R250, R251, R252, R253, R255, R258). Outside a delay slot each completes: the instruction in
sequence is next, as a delay slot, then the address of the delay slot plus 4 times the signed offset
if the condition holds, else the instruction in sequence. BLTZAL and BGEZAL write r31 with the
address of the branch plus 8, taken or not; nothing else changes. That BLTZAL and BGEZAL of r31 read
it before writing it (D11) the spec marks as its own decision: log 11 (PRESUMED). -/
def Obligations.BranchResults : Prop :=
  ∀ (s : State) (rs rt : Reg) (offset : BitVec 16), s.seq.inDelaySlot = false →
    TransferResult s (if s.readReg rs = s.readReg rt then
      some (s.pc + 4 + BitVec.ofInt 32 (4 * offset.toInt)) else none)
      s.readMerged (exec (.beq rs rt offset) s) ∧
    TransferResult s (if s.readReg rs ≠ s.readReg rt then
      some (s.pc + 4 + BitVec.ofInt 32 (4 * offset.toInt)) else none)
      s.readMerged (exec (.bne rs rt offset) s) ∧
    TransferResult s (if (s.readReg rs).toInt ≤ 0 then
      some (s.pc + 4 + BitVec.ofInt 32 (4 * offset.toInt)) else none)
      s.readMerged (exec (.blez rs offset) s) ∧
    TransferResult s (if 0 < (s.readReg rs).toInt then
      some (s.pc + 4 + BitVec.ofInt 32 (4 * offset.toInt)) else none)
      s.readMerged (exec (.bgtz rs offset) s) ∧
    TransferResult s (if (s.readReg rs).toInt < 0 then
      some (s.pc + 4 + BitVec.ofInt 32 (4 * offset.toInt)) else none)
      s.readMerged (exec (.bltz rs offset) s) ∧
    TransferResult s (if 0 ≤ (s.readReg rs).toInt then
      some (s.pc + 4 + BitVec.ofInt 32 (4 * offset.toInt)) else none)
      s.readMerged (exec (.bgez rs offset) s) ∧
    TransferResult s (if (s.readReg rs).toInt < 0 then
      some (s.pc + 4 + BitVec.ofInt 32 (4 * offset.toInt)) else none)
      (fun r => if r = 31 then s.pc + 8 else s.readMerged r) (exec (.bltzal rs offset) s) ∧
    TransferResult s (if 0 ≤ (s.readReg rs).toInt then
      some (s.pc + 4 + BitVec.ofInt 32 (4 * offset.toInt)) else none)
      (fun r => if r = 31 then s.pc + 8 else s.readMerged r) (exec (.bgezal rs offset) s)

/-- BC0F, BC0T, BC1F, BC1T, BC2F, BC2T, BC3F, BC3T: condition, target, delay slot (R270, R272, R366,
R448, D16). Outside a delay slot, with the coprocessor usable (and for z = 1 an FPA present), each
completes like a branch: taken to the delay slot's address plus 4 times the signed offset if the
condition is false (F) or true (T). For z = 0, 2, 3 the condition is the latched BrCond input, and
every instruction that completes or takes an exception latches the BrCond pins sampled in its own
step, so that the next one tests them (the instant of capture is decision D16, log 30; after reset
see log 53); for z = 1 it is FCR31.C, with the delay of LoadDelay. Nothing else changes. -/
def Obligations.CoprocessorBranchResults : Prop :=
  (∀ (i : Instr) (s t : State), exec i s = .next t → t.seq.waiting = false →
    CapturesConditions s t) ∧
  ∀ (s : State) (offset : BitVec 16), s.seq.inDelaySlot = false →
    (s.usable 0 = true →
      TransferResult s (if s.seq.condLatch0 = false then
        some (s.pc + 4 + BitVec.ofInt 32 (4 * offset.toInt)) else none)
        s.readMerged (exec (.bc0f offset) s) ∧
      TransferResult s (if s.seq.condLatch0 = true then
        some (s.pc + 4 + BitVec.ofInt 32 (4 * offset.toInt)) else none)
        s.readMerged (exec (.bc0t offset) s)) ∧
    (FpaReady s →
      TransferResult s (if s.fpaCondition = false then
        some (s.pc + 4 + BitVec.ofInt 32 (4 * offset.toInt)) else none)
        s.readMerged (exec (.bc1f offset) s) ∧
      TransferResult s (if s.fpaCondition = true then
        some (s.pc + 4 + BitVec.ofInt 32 (4 * offset.toInt)) else none)
        s.readMerged (exec (.bc1t offset) s)) ∧
    (s.usable 2 = true →
      TransferResult s (if s.seq.condLatch2 = false then
        some (s.pc + 4 + BitVec.ofInt 32 (4 * offset.toInt)) else none)
        s.readMerged (exec (.bc2f offset) s) ∧
      TransferResult s (if s.seq.condLatch2 = true then
        some (s.pc + 4 + BitVec.ofInt 32 (4 * offset.toInt)) else none)
        s.readMerged (exec (.bc2t offset) s)) ∧
    (s.usable 3 = true →
      TransferResult s (if s.seq.condLatch3 = false then
        some (s.pc + 4 + BitVec.ofInt 32 (4 * offset.toInt)) else none)
        s.readMerged (exec (.bc3f offset) s) ∧
      TransferResult s (if s.seq.condLatch3 = true then
        some (s.pc + 4 + BitVec.ofInt 32 (4 * offset.toInt)) else none)
        s.readMerged (exec (.bc3t offset) s))

/-- A jump or branch in a delay slot is refused (R254, D7) (R254, D7). In a delay slot every jump
and branch answers the refusal branchInDelaySlot, a coprocessor branch once its coprocessor is
usable. -/
def Obligations.TransferInDelaySlotRefused : Prop :=
  ∀ (s : State) (rs rt rd : Reg) (target : BitVec 26) (offset : BitVec 16),
    s.seq.inDelaySlot = true →
    (∀ i, i = .j target ∨ i = .jal target ∨ i = .jr rs ∨ i = .jalr rs rd ∨ i = .beq rs rt offset ∨
      i = .bne rs rt offset ∨ i = .blez rs offset ∨ i = .bgtz rs offset ∨ i = .bltz rs offset ∨
      i = .bgez rs offset ∨ i = .bltzal rs offset ∨ i = .bgezal rs offset ∨
      (s.usable 0 = true ∧ (i = .bc0f offset ∨ i = .bc0t offset)) ∨
      (FpaReady s ∧ (i = .bc1f offset ∨ i = .bc1t offset)) ∨
      (s.usable 2 = true ∧ (i = .bc2f offset ∨ i = .bc2t offset)) ∨
      (s.usable 3 = true ∧ (i = .bc3f offset ∨ i = .bc3t offset)) →
      exec i s = .refused .branchInDelaySlot)

/-- SYSCALL and BREAK take their exception in every state (R260, R261, R262). SYSCALL enters the Sys
exception and BREAK the Bp exception, whatever the code field and the mode; neither records an
address or touches the FPA. -/
def Obligations.SystemCallAndBreak : Prop :=
  ∀ (s : State) (code : BitVec 20),
    EntersException s .sys (exec (.syscall code) s) ∧
    (∃ t, exec (.syscall code) s = .next t ∧ KeepsAddressRecords s t ∧ KeepsFpa s t) ∧
    EntersException s .bp (exec (.brk code) s) ∧
    (∃ t, exec (.brk code) s = .next t ∧ KeepsAddressRecords s t ∧ KeepsFpa s t)

/-- Every coprocessor instruction whose coprocessor is unusable takes CpU and does nothing else
(R263, R296, R340, R412). An instruction whose major opcode is COPz (LWC1 and SWC1 for z = 1) enters
CpU with CE = z when coprocessor z is not usable (CUz clear, and for z = 0 User mode), before any
operand is looked at; no address is recorded and the FPA is untouched. -/
def Obligations.CoprocessorUnusable : Prop :=
  (∀ (s : State) (i : Instr) (z : BitVec 2),
    (opField (encode i) = (0b0100#4) ++ z ∨
      (z = 1 ∧ (opField (encode i) = 0x31 ∨ opField (encode i) = 0x39))) →
    s.usable z = false →
    EntersException s (.cpu z) (exec i s) ∧
      ∃ t, exec i s = .next t ∧ KeepsAddressRecords s t ∧ KeepsFpa s t) ∧
  (∀ (s : State) (z : BitVec 2), s.usable z = true ↔
    ((statusWord s.cp0.status).getLsbD (28 + z.toNat) = true ∨
      (z = 0 ∧ (statusWord s.cp0.status).getLsbD 1 = false)))

/-- LB, LBU, LH, LHU, LW, LWL, LWR, LWC1: the datum delivered, in any mode and segment, cached or
not (R82, R96, R171, R172, R173, R174, R175, R176, R177, R178, R185, R345). Whenever the address is
accepted and the word access answers, the load completes: the datum the byte order in force selects
from the word, extended, is pending for rt (nothing for r0); LWL and LWR merge into the value rt
holds once a pending load is delivered; LWC1 with the FPA ready leaves the word pending for the FGR.
Up to caches, Status TS, PE, CM and the write buffer the access changed nothing, and no byte of
memory reads differently. The byte order in force is the one latched at reset, reversed exactly when
Status.RE = 1 in User mode (R39, R82; log 50, DEDUCED). -/
def Obligations.LoadResults : Prop :=
  (∀ s : State,
    (s.cp0.status.re = false ∨ s.cp0.status.kuc = false → s.bigEndianData = s.mode.bigEndian) ∧
    (s.cp0.status.re = true → s.cp0.status.kuc = true → s.bigEndianData = !s.mode.bigEndian)) ∧
  ∀ (s t u : State) (base rt : Reg) (offset : BitVec 16) (pa w : Word) (c : Bool),
    (s.address (s.effectiveAddress base offset) .load true = .ok (pa, c) t →
      t.loadWord (wordAddress pa) c = .ok w u →
      AccessKeeps s u ∧ KeepsMemory s u ∧
      DeferredResult u rt
        ((w.extractLsb' (8 * byteLane s.bigEndianData (s.effectiveAddress base offset)) 8).signExtend 32)
        (exec (.lb base rt offset) s) ∧
      DeferredResult u rt
        ((w.extractLsb' (8 * byteLane s.bigEndianData (s.effectiveAddress base offset)) 8).setWidth 32)
        (exec (.lbu base rt offset) s) ∧
      DeferredResult u rt
        (mergeLeft (byteLane s.bigEndianData (s.effectiveAddress base offset)) (s.readMerged rt) w)
        (exec (.lwl base rt offset) s) ∧
      DeferredResult u rt
        (mergeRight (byteLane s.bigEndianData (s.effectiveAddress base offset)) (s.readMerged rt) w)
        (exec (.lwr base rt offset) s) ∧
      ((s.effectiveAddress base offset).toNat % 4 = 0 →
        DeferredResult u rt w (exec (.lw base rt offset) s) ∧
        (FpaReady s → DeferredFpResult u rt w (exec (.lwc1 base rt offset) s))) ∧
      ((s.effectiveAddress base offset).toNat % 2 = 0 →
        DeferredResult u rt
          ((if s.bigEndianData = (s.effectiveAddress base offset).getLsbD 1 then w.extractLsb' 0 16
            else w.extractLsb' 16 16).signExtend 32) (exec (.lh base rt offset) s) ∧
        DeferredResult u rt
          ((if s.bigEndianData = (s.effectiveAddress base offset).getLsbD 1 then w.extractLsb' 0 16
            else w.extractLsb' 16 16).setWidth 32) (exec (.lhu base rt offset) s)))

/-- The word of any uncacheable load; LB, LBU, LH, LHU, LW from kseg1: the bytes of memory they
deliver, and the frame (R81, R103, R111, R121, R125, R172, R173, R174, R175, R176, R540, R546). The
word access of a load from any uncacheable address (kseg1, or a page with N = 1: R111, R125), the
cache not isolated: answered by memory it gives the memory word as the CPU's own stores leave it,
answered by a device the device's word (R540), both with every earlier store written and the write
buffer empty, no byte of memory reading differently and no cache, register or CP0 changed; ended by
BusError it is DBE after the same; when nothing answers, and behind a dead write, it does not end
(R545, R546, R548). (LoadResults and AccessExceptions make of it what each load does.) A Kernel-mode
load from kseg1 answered by memory, the cache not isolated, at an aligned address completes: pending
for rt is the byte, halfword or word of memory at the address AND 0x1fffffff, as the CPU's own
stores leave it, sign- or zero-extended. Nothing else changes. -/
def Obligations.UncachedLoads : Prop :=
  (∀ (s : State) (w : WordAddr), s.cp0.status.isc = false →
    (s.seq.busBlocked = true → s.loadWord w false = .never s) ∧
    (s.seq.busBlocked = false →
      (s.env.dataReply = .memory → s.loadWord w false = .ok (s.memoryWord w) s.drain) ∧
      (∀ w0 w1 w2 w3, s.env.dataReply = .device w0 w1 w2 w3 →
        s.loadWord w false = .ok (s.busWord (.device w0 w1 w2 w3) w) s.drain) ∧
      (s.env.dataReply = .busError → s.loadWord w false = .exc .dbe s.drain) ∧
      (s.env.dataReply = .noAnswer → s.loadWord w false = .never s.drain)) ∧
    AccessKeeps s s.drain ∧ KeepsMemory s s.drain ∧ KeepsCaches s s.drain ∧
    s.drain.cp0 = s.cp0 ∧ s.drain.writeBuffer = []) ∧
  ∀ (s : State) (base rt : Reg) (offset : BitVec 16),
    UncachedAccess s (s.effectiveAddress base offset) →
    DeferredResult s rt
      ((s.memoryByte (unmappedAddress (s.effectiveAddress base offset)).toNat).signExtend 32)
      (exec (.lb base rt offset) s) ∧
    DeferredResult s rt
      ((s.memoryByte (unmappedAddress (s.effectiveAddress base offset)).toNat).setWidth 32)
      (exec (.lbu base rt offset) s) ∧
    ((s.effectiveAddress base offset).toNat % 2 = 0 →
      DeferredResult s rt
        ((s.halfAt (unmappedAddress (s.effectiveAddress base offset)).toNat).signExtend 32)
        (exec (.lh base rt offset) s) ∧
      DeferredResult s rt
        ((s.halfAt (unmappedAddress (s.effectiveAddress base offset)).toNat).setWidth 32)
        (exec (.lhu base rt offset) s)) ∧
    ((s.effectiveAddress base offset).toNat % 4 = 0 →
      DeferredResult s rt (s.wordAt (unmappedAddress (s.effectiveAddress base offset)).toNat)
        (exec (.lw base rt offset) s))

/-- LWL and LWR: the merge tables, and completion from kseg1 (R103, R177, R178). LWL and LWR merge
the bytes of the addressed word into rt as the tables of R177 and R178 say, lane by lane, the lane
being 3 - a under big-endian and a under little-endian; a Kernel-mode LWL or LWR from kseg1 answered
by memory completes at any alignment with the merged word pending for rt and nothing else changed.
-/
def Obligations.PartialLoads : Prop :=
  (∀ m3 m2 m1 m0 t3 t2 t1 t0 : Byte,
    mergeLeft 3 (t3 ++ t2 ++ t1 ++ t0) (m3 ++ m2 ++ m1 ++ m0) = m3 ++ m2 ++ m1 ++ m0 ∧
    mergeLeft 2 (t3 ++ t2 ++ t1 ++ t0) (m3 ++ m2 ++ m1 ++ m0) = m2 ++ m1 ++ m0 ++ t0 ∧
    mergeLeft 1 (t3 ++ t2 ++ t1 ++ t0) (m3 ++ m2 ++ m1 ++ m0) = m1 ++ m0 ++ t1 ++ t0 ∧
    mergeLeft 0 (t3 ++ t2 ++ t1 ++ t0) (m3 ++ m2 ++ m1 ++ m0) = m0 ++ t2 ++ t1 ++ t0 ∧
    mergeRight 0 (t3 ++ t2 ++ t1 ++ t0) (m3 ++ m2 ++ m1 ++ m0) = m3 ++ m2 ++ m1 ++ m0 ∧
    mergeRight 1 (t3 ++ t2 ++ t1 ++ t0) (m3 ++ m2 ++ m1 ++ m0) = t3 ++ m3 ++ m2 ++ m1 ∧
    mergeRight 2 (t3 ++ t2 ++ t1 ++ t0) (m3 ++ m2 ++ m1 ++ m0) = t3 ++ t2 ++ m3 ++ m2 ∧
    mergeRight 3 (t3 ++ t2 ++ t1 ++ t0) (m3 ++ m2 ++ m1 ++ m0) = t3 ++ t2 ++ t1 ++ m3) ∧
  (∀ va : Word, byteLane true va = 3 - va.toNat % 4 ∧ byteLane false va = va.toNat % 4) ∧
  (∀ (s : State) (base rt : Reg) (offset : BitVec 16),
    UncachedAccess s (s.effectiveAddress base offset) →
    DeferredResult s rt
      (mergeLeft (byteLane s.mode.bigEndian (s.effectiveAddress base offset)) (s.readMerged rt)
        (s.memoryWord (wordAddress (unmappedAddress (s.effectiveAddress base offset)))))
      (exec (.lwl base rt offset) s) ∧
    DeferredResult s rt
      (mergeRight (byteLane s.mode.bigEndian (s.effectiveAddress base offset)) (s.readMerged rt)
        (s.memoryWord (wordAddress (unmappedAddress (s.effectiveAddress base offset)))))
      (exec (.lwr base rt offset) s))

/-- SB, SH, SW, SWL, SWR, SWC1: which lanes of which word they store, in any mode and segment (R39,
R82, R86, R97, R180, R181, R182, R183, R184, R186, R346). Whenever the address is accepted and the
word store answers, the store completes with no register changed: SB, SH and SW hand the low part of
rt to the lanes R86 gives for the byte order in force, SWL and SWR the lanes and shift of R183 and
R184, SWC1 the whole FGR. The byte order in force is the one latched at reset, reversed exactly when
Status.RE = 1 in User mode (R39, R82; log 50, DEDUCED). -/
def Obligations.StoreResults : Prop :=
  (∀ s : State,
    (s.cp0.status.re = false ∨ s.cp0.status.kuc = false → s.bigEndianData = s.mode.bigEndian) ∧
    (s.cp0.status.re = true → s.cp0.status.kuc = true → s.bigEndianData = !s.mode.bigEndian)) ∧
  ∀ (s t u : State) (base rt : Reg) (offset : BitVec 16) (pa : Word) (c : Bool),
    s.address (s.effectiveAddress base offset) .store true = .ok (pa, c) t →
    (t.storeWord (wordAddress pa) c (Width.byte.lanes s.bigEndianData (s.effectiveAddress base offset))
        ((s.readReg rt &&& 0xff) <<<
          (8 * byteLane s.bigEndianData (s.effectiveAddress base offset))) = .ok () u →
      AccessKeeps s u ∧ exec (.sb base rt offset) s = .next u.retire) ∧
    ((s.effectiveAddress base offset).toNat % 2 = 0 →
      t.storeWord (wordAddress pa) c
        (Width.half.lanes s.bigEndianData (s.effectiveAddress base offset))
        ((s.readReg rt &&& 0xffff) <<<
          (if s.bigEndianData = (s.effectiveAddress base offset).getLsbD 1 then 0 else 16)) = .ok () u →
      AccessKeeps s u ∧ exec (.sh base rt offset) s = .next u.retire) ∧
    ((s.effectiveAddress base offset).toNat % 4 = 0 →
      t.storeWord (wordAddress pa) c allLanes (s.readReg rt) = .ok () u →
      AccessKeeps s u ∧ exec (.sw base rt offset) s = .next u.retire) ∧
    (t.storeWord (wordAddress pa) c
        (lanesDown (byteLane s.bigEndianData (s.effectiveAddress base offset)))
        (s.readReg rt >>> (8 * (3 - byteLane s.bigEndianData (s.effectiveAddress base offset)))) =
        .ok () u →
      AccessKeeps s u ∧ exec (.swl base rt offset) s = .next u.retire) ∧
    (t.storeWord (wordAddress pa) c
        (lanesUp (byteLane s.bigEndianData (s.effectiveAddress base offset)))
        (s.readReg rt <<< (8 * byteLane s.bigEndianData (s.effectiveAddress base offset))) = .ok () u →
      AccessKeeps s u ∧ exec (.swr base rt offset) s = .next u.retire) ∧
    ((s.effectiveAddress base offset).toNat % 4 = 0 → FpaReady s →
      t.storeWord (wordAddress pa) c allLanes (s.readFgr rt) = .ok () u →
      AccessKeeps s u ∧ exec (.swc1 base rt offset) s = .next u.retire)

/-- The word of any uncacheable store; SB, SH, SW to kseg1: the bytes of memory they leave, the
frame, and the wait behind a dead bus (R81, R103, R111, R120, R125, R180, R181, R182, R186, R548,
R551). The word access of a store to any uncacheable address (kseg1, or a page with N = 1: R111,
R125), the cache not isolated, the bus not held by a dead write with four more stores waiting:
exactly the enabled lanes of that word are stored, with every other byte of memory reading as before
and no cache, register or CP0 changed; else the store waits. (StoreResults makes of it what each
store does.) A Kernel-mode store to kseg1, the cache not isolated, at an aligned address completes:
the low byte, halfword or word of rt stands at the address AND 0x1fffffff in the machine's byte
order, every other byte of memory reads as before, and nothing else changes. Only when a write that
is never acknowledged holds the bus and four more stores wait behind it does the store not complete:
the core then waits. -/
def Obligations.UncachedStores : Prop :=
  (∀ (s : State) (w : WordAddr) (l : Lanes) (v : Word), s.cp0.status.isc = false →
    ((s.seq.busBlocked = false ∨ s.waitingStores.length < 4) →
      ∃ t, s.storeWord w false l v = .ok () t ∧ StoresLanes s t w l v ∧ AccessKeeps s t ∧
        KeepsCaches s t ∧ t.cp0 = s.cp0) ∧
    (s.seq.busBlocked = true → 4 ≤ s.waitingStores.length →
      s.storeWord w false l v = .never s)) ∧
  ∀ (s : State) (base rt : Reg) (offset : BitVec 16), s.cp0.status.kuc = false →
    (s.effectiveAddress base offset).extractLsb' 29 3 = 5 → s.cp0.status.isc = false →
    ((s.seq.busBlocked = false ∨ s.waitingStores.length < 4) →
      StoreBytesResult s
        (Width.byte.bytes s.mode.bigEndian (unmappedAddress (s.effectiveAddress base offset)).toNat
          (s.readReg rt)) (exec (.sb base rt offset) s) ∧
      ((s.effectiveAddress base offset).toNat % 2 = 0 →
        StoreBytesResult s
          (Width.half.bytes s.mode.bigEndian (unmappedAddress (s.effectiveAddress base offset)).toNat
            (s.readReg rt)) (exec (.sh base rt offset) s)) ∧
      ((s.effectiveAddress base offset).toNat % 4 = 0 →
        StoreBytesResult s
          (Width.word.bytes s.mode.bigEndian (unmappedAddress (s.effectiveAddress base offset)).toNat
            (s.readReg rt)) (exec (.sw base rt offset) s))) ∧
    (s.seq.busBlocked = true → 4 ≤ s.waitingStores.length →
      exec (.sb base rt offset) s = .next s.waitForBus ∧
      ((s.effectiveAddress base offset).toNat % 2 = 0 →
        exec (.sh base rt offset) s = .next s.waitForBus) ∧
      ((s.effectiveAddress base offset).toNat % 4 = 0 →
        exec (.sw base rt offset) s = .next s.waitForBus))

/-- SWL and SWR to kseg1: the lanes and bytes they store, and the frame (R87, R103, R183, R184). A
Kernel-mode SWL or SWR to kseg1, the cache not isolated, the bus not held by a dead write with four
more stores waiting, completes at any alignment. With L the lane of the addressed byte, SWL stores
lanes L to 0 with the high L+1 bytes of rt, SWR stores lanes 3 to L with the low 4-L bytes of rt;
every other byte of memory reads as before, and nothing else changes. -/
def Obligations.PartialStores : Prop :=
  (∀ (s : State) (base rt : Reg) (offset : BitVec 16), s.cp0.status.kuc = false →
    (s.effectiveAddress base offset).extractLsb' 29 3 = 5 → s.cp0.status.isc = false →
    (s.seq.busBlocked = false ∨ s.waitingStores.length < 4) →
    StoreResult s (wordAddress (unmappedAddress (s.effectiveAddress base offset)))
      (lanesDown (byteLane s.mode.bigEndian (s.effectiveAddress base offset)))
      (s.readReg rt >>> (8 * (3 - byteLane s.mode.bigEndian (s.effectiveAddress base offset))))
      (exec (.swl base rt offset) s) ∧
    StoreResult s (wordAddress (unmappedAddress (s.effectiveAddress base offset)))
      (lanesUp (byteLane s.mode.bigEndian (s.effectiveAddress base offset)))
      (s.readReg rt <<< (8 * byteLane s.mode.bigEndian (s.effectiveAddress base offset)))
      (exec (.swr base rt offset) s)) ∧
  (∀ lane k : Nat, lane < 4 → k < 4 →
    (lanesDown lane).getLsbD k = decide (k ≤ lane) ∧ (lanesUp lane).getLsbD k = decide (lane ≤ k)) ∧
  (∀ (lane k : Nat) (v : Word), lane < 4 → k < 4 →
    (k ≤ lane → (v >>> (8 * (3 - lane))).extractLsb' (8 * k) 8 = v.extractLsb' (8 * (k + (3 - lane))) 8) ∧
    (lane ≤ k → (v <<< (8 * lane)).extractLsb' (8 * k) 8 = v.extractLsb' (8 * (k - lane)) 8))

/-- Loads and stores whose access raises an exception, ends in BusError, or never ends (R84, R98,
R101, R121, R179, R409, R424, R425, R545, R546, R548, R551). For each of the fourteen loads and
stores (LWC1 and SWC1 with the FPA ready): if its address, checked for its width, raises an
exception, the instruction is exactly the entry of that exception; misaligned and User-mode Kernel
addresses raise AdEL (loads) or AdES (stores) with that address. A load whose word access raises an
exception takes DBE after what the access did, which changed no register and no byte of memory; a
Kernel-mode load from kseg1 ended by BusError is DBE after the drained buffer. A load whose access
never ends leaves the core waiting for the bus, nothing else done; and so does a store, of every
width, uncached or cacheable, behind a write that is never acknowledged with four more stores
waiting (R548, R551; log 54, DEDUCED): no register and no byte of memory changes, and of an uncached
one no cache either. -/
def Obligations.AccessExceptions : Prop :=
  ∀ (s : State) (i : Instr) (a : DataAccess), dataAccess i = some a → (a.ofFpa = true → FpaReady s) →
    (∀ (x : Exc) (t : State), s.address (s.effectiveAddress a.base a.offset) a.kind
        (a.width.aligned (s.effectiveAddress a.base a.offset)) = .exc x t →
      exec i s = s.raise x ∧ EntersException s x (exec i s)) ∧
    (a.width.aligned (s.effectiveAddress a.base a.offset) = false ∨
        (s.cp0.status.kuc = true ∧ (s.effectiveAddress a.base a.offset).getLsbD 31 = true) →
      exec i s = s.raise (a.kind.addressError (s.effectiveAddress a.base a.offset))) ∧
    (∀ (pa : Word) (c : Bool) (t u : State), a.kind = .load →
      s.address (s.effectiveAddress a.base a.offset) .load
        (a.width.aligned (s.effectiveAddress a.base a.offset)) = .ok (pa, c) t →
      (∀ x, t.loadWord (wordAddress pa) c = .exc x u →
        x = .dbe ∧ AccessKeeps s u ∧ KeepsMemory s u ∧ exec i s = u.raise .dbe ∧
          EntersException u .dbe (exec i s)) ∧
      (t.loadWord (wordAddress pa) c = .never u →
        AccessKeeps s u ∧ KeepsMemory s u ∧ exec i s = .next u.waitForBus)) ∧
    (a.kind = .load → a.width.aligned (s.effectiveAddress a.base a.offset) = true →
      s.cp0.status.kuc = false → (s.effectiveAddress a.base a.offset).extractLsb' 29 3 = 5 →
      s.cp0.status.isc = false → s.seq.busBlocked = false → s.env.dataReply = .busError →
      exec i s = s.drain.raise .dbe) ∧
    (∀ (pa : Word) (c : Bool) (t : State), a.kind = .store →
      s.address (s.effectiveAddress a.base a.offset) .store
        (a.width.aligned (s.effectiveAddress a.base a.offset)) = .ok (pa, c) t →
      s.cp0.status.isc = false → (c = true → s.awaitingFlush = false) →
      s.seq.busBlocked = true → 4 ≤ s.waitingStores.length →
      ∃ u, exec i s = .next u.waitForBus ∧ AccessKeeps s u ∧ KeepsMemory s u ∧
        u.writeBuffer = s.writeBuffer ∧ (c = false → u = t))

/-- A cacheable load: hit, miss and refill of a word or a block, bad parity, bus error, no answer
(R42, R121, R125, R126, R127, R132, R510, R540, R545, R546, R548, D41). Cache not isolated. Between
a change of Config.AC and the flushes the load is refused (R127, R510, D41, log 33); the rest is for
no flush outstanding. (R125 describes this for SwC = 0; that the swapped arrays behave the same,
which these clauses say too, is the model's choice, log 34, DEDUCED.) A hit returns the cached word
and changes nothing. A miss answered by memory returns the memory word as the CPU's own stores leave
it, with every pending store written, and afterwards the word hits; with DBRefill in force so do all
four words of its block, each with its memory word. A miss answered by a device gives the device's
word, every pending store written, and the word, or the block, hits with what the device gave
(R540). In both no other entry of the caches changes (R126). A miss that ends in BusError raises
DBE, every pending store written, and leaves the entries of the word, or of the block, unchanged or
invalid, never valid with new data, and no other entry changed (R546, D43; that one choice covers
the whole block is the model's, log 35, DESIGN CHOICE); one that is never answered, or that finds
the bus held by a dead write, does not end, and changes no cache. Bad parity found on the lookup
makes the access a miss, and every miss sets Status.PE exactly when the lookup found it, and keeps
PE otherwise (R132, R42). -/
def Obligations.CachedLoads : Prop :=
  ∀ (s : State) (w : WordAddr), s.cp0.status.isc = false →
    (s.awaitingFlush = true → s.loadWord w true = .refused .cacheNotFlushed) ∧
    (s.awaitingFlush = false →
      ¬ ((s.dataLookup w).hit = true ∧ (s.dataLookup w).parityError = true) ∧
      ((s.dataLookup w).hit = true → s.loadWord w true = .ok (s.dataLookup w).word s) ∧
      ((s.dataLookup w).hit = false → s.seq.busBlocked = false → s.env.dataReply = .memory →
        ∃ t, s.loadWord w true = .ok (s.memoryWord w) t ∧ t.writeBuffer = [] ∧ KeepsMemory s t ∧
          AccessKeeps s t ∧ (t.dataLookup w).hit = true ∧ (t.dataLookup w).word = s.memoryWord w ∧
          (s.dbRefillInForce = true → ∀ k : BitVec 2, (t.dataLookup (blockWord w k)).hit = true ∧
            (t.dataLookup (blockWord w k)).word = s.memoryWord (blockWord w k)) ∧
          KeepsOtherEntries s t s.dataSide (if s.dbRefillInForce then blockWords w else [w]) ∧
          t.cp0.status = { s.cp0.status with
            pe := s.cp0.status.pe || (s.dataLookup w).parityError }) ∧
      (∀ w0 w1 w2 w3, (s.dataLookup w).hit = false → s.seq.busBlocked = false →
        s.env.dataReply = .device w0 w1 w2 w3 →
        ∃ t, s.loadWord w true = .ok (s.busWord (.device w0 w1 w2 w3) w) t ∧ t.writeBuffer = [] ∧
          KeepsMemory s t ∧ AccessKeeps s t ∧ (t.dataLookup w).hit = true ∧
          (t.dataLookup w).word = s.busWord (.device w0 w1 w2 w3) w ∧
          (s.dbRefillInForce = true → ∀ k : BitVec 2, (t.dataLookup (blockWord w k)).hit = true ∧
            (t.dataLookup (blockWord w k)).word =
              s.busWord (.device w0 w1 w2 w3) (blockWord w k)) ∧
          KeepsOtherEntries s t s.dataSide (if s.dbRefillInForce then blockWords w else [w]) ∧
          t.cp0.status = { s.cp0.status with
            pe := s.cp0.status.pe || (s.dataLookup w).parityError }) ∧
      ((s.dataLookup w).hit = false → s.seq.busBlocked = false → s.env.dataReply = .busError →
        ∃ t, s.loadWord w true = .exc .dbe t ∧ t.writeBuffer = [] ∧ KeepsMemory s t ∧
          AccessKeeps s t ∧
          RefillAborted s t s.dataSide (if s.dbRefillInForce then blockWords w else [w]) ∧
          t.cp0.status = { s.cp0.status with
            pe := s.cp0.status.pe || (s.dataLookup w).parityError }) ∧
      ((s.dataLookup w).hit = false → (s.seq.busBlocked = true ∨ s.env.dataReply = .noAnswer) →
        ∃ t, s.loadWord w true = .never t ∧ KeepsMemory s t ∧ AccessKeeps s t ∧ KeepsCaches s t ∧
          t.cp0.status = { s.cp0.status with
            pe := s.cp0.status.pe || (s.dataLookup w).parityError }))

/-- A cacheable store: write-through of words, read-modify-write of partial words on a hit, and
parity (R42, R120, R125, R127, R132, R510, D39, D41). Cache not isolated. Between a change of
Config.AC and the flushes the store is refused (R127, R510, D41, log 33); the rest is for no flush
outstanding and the bus not held by a dead write with four more stores waiting. (R125 describes this
for SwC = 0; that the swapped arrays behave the same, which the clauses that write the cache say
too, is the model's choice, log 34, DEDUCED.) With PZ = 0 a word store leaves the word in memory and
in the data cache, where it hits; with PZ = 1 it leaves it there too, and a lookup at once either
hits or finds bad parity and misses, a free choice (R132, D39). A partial store that hits merges its
lanes into the cached word, which then stands in the cache (with PZ = 0 it hits, with PZ = 1 it hits
or shows bad parity) and, whole, in memory. A partial store that misses changes those lanes of
memory and no cache, and sets Status.PE when the lookup found bad parity. A store changes no cache
entry but the one its word selects, and with the caches not swapped, whatever PZ, nothing of the
instruction cache. -/
def Obligations.CachedStores : Prop :=
  ∀ (s : State) (w : WordAddr) (v : Word) (l : Lanes), s.cp0.status.isc = false →
    (s.awaitingFlush = true → s.storeWord w true l v = .refused .cacheNotFlushed) ∧
    (s.awaitingFlush = false → (s.seq.busBlocked = false ∨ s.waitingStores.length < 4) →
      (s.cp0.status.pz = true → ∃ t, s.storeWord w true allLanes v = .ok () t ∧
        StoresLanes s t w allLanes v ∧ AccessKeeps s t ∧ (t.dataLookup w).word = v ∧
        (t.dataLookup w).parityError = !(t.dataLookup w).hit ∧
        (s.cp0.status.swc = false → t.icache = s.icache)) ∧
      (s.cp0.status.pz = false → ∃ t, s.storeWord w true allLanes v = .ok () t ∧
        StoresLanes s t w allLanes v ∧ AccessKeeps s t ∧
        (t.dataLookup w).hit = true ∧ (t.dataLookup w).word = v ∧
        (s.cp0.status.swc = false → t.icache = s.icache)) ∧
      (l ≠ allLanes → s.cp0.status.pz = false → (s.dataLookup w).hit = true →
        ∃ t, s.storeWord w true l v = .ok () t ∧
          StoresLanes s t w allLanes (mergeLanes l (s.dataLookup w).word v) ∧ AccessKeeps s t ∧
          (t.dataLookup w).hit = true ∧
          (t.dataLookup w).word = mergeLanes l (s.dataLookup w).word v ∧
          (s.cp0.status.swc = false → t.icache = s.icache)) ∧
      (l ≠ allLanes → s.cp0.status.pz = true → (s.dataLookup w).hit = true →
        ∃ t, s.storeWord w true l v = .ok () t ∧
          StoresLanes s t w allLanes (mergeLanes l (s.dataLookup w).word v) ∧ AccessKeeps s t ∧
          (t.dataLookup w).word = mergeLanes l (s.dataLookup w).word v ∧
          (t.dataLookup w).parityError = !(t.dataLookup w).hit ∧
          (s.cp0.status.swc = false → t.icache = s.icache)) ∧
      (l ≠ allLanes → (s.dataLookup w).hit = false →
        ∃ t, s.storeWord w true l v = .ok () t ∧ StoresLanes s t w l v ∧ AccessKeeps s t ∧
          KeepsCaches s t ∧ t.cp0.status = { s.cp0.status with
            pe := s.cp0.status.pe || (s.dataLookup w).parityError }) ∧
      (∀ t, s.storeWord w true l v = .ok () t → KeepsOtherEntries s t s.dataSide [w]) ∧
      (∀ k, k < 4 → (mergeLanes l (s.dataLookup w).word v).extractLsb' (8 * k) 8 =
        if l.getLsbD k then v.extractLsb' (8 * k) 8 else (s.dataLookup w).word.extractLsb' (8 * k) 8))

/-- Isolation: whatever PZ, stores reach only the cache and partial stores invalidate; loads report
hit or miss in CM, bad parity in PE (R42, R127, R128, R129, R131, R132, R510, D30). With IsC set: an
isolated load returns the indexed word, sets CM exactly when the entry did not hit and PE when it
showed bad parity, and nothing else changes (R131, R132, R42). A store, whatever PZ, reaches neither
memory nor the write buffer and changes no register and no CP0; a word store leaves the word in the
entry, which at once hits or shows bad parity and misses (D39); a partial store leaves the entry
missing and no data word changed; no other entry changes (said while no flush is outstanding there).
With PZ = 0 an isolated load after the word store returns the word with CM clear, and one after the
partial store sets CM. The array serving data is the instruction cache exactly when SwC is set, and
the other one is unchanged. An uncached access is refused (D30, log 32). A store writes one tag of
that array: while a flush is outstanding there it stays so exactly as long as the tag at some other
index has not been written (R127, R510, log 33, DEDUCED). -/
def Obligations.IsolatedCache : Prop :=
  (∀ (s : State) (w : WordAddr) (v : Word) (l : Lanes), s.cp0.status.isc = true →
    ∃ t, s.storeWord w true l v = .ok () t ∧ t.mem = s.mem ∧ t.writeBuffer = s.writeBuffer ∧
      AccessKeeps s t ∧ t.cp0 = s.cp0 ∧
      (if s.cp0.status.swc then t.dcache = s.dcache else t.icache = s.icache) ∧
      ((s.cache s.dataSide).tagsUndefined = false → KeepsOtherEntries s t s.dataSide [w]) ∧
      (l = allLanes → (t.dataLookup w).word = v ∧
        (t.dataLookup w).parityError = !(t.dataLookup w).hit) ∧
      (l ≠ allLanes → (t.dataLookup w).hit = false ∧
        ∀ n i, (t.cache s.dataSide).dataAt n i = (s.cache s.dataSide).dataAt n i) ∧
      ((t.cache s.dataSide).tagsUndefined = true ↔ (s.cache s.dataSide).tagsUndefined = true ∧
        ∃ j, j < tagCount s.dataSide s.acInForce ∧ j ≠ tagIndex s.dataSide s.acInForce w ∧
          (s.cache s.dataSide).tagAt j = none)) ∧
  (∀ (s : State) (w : WordAddr), s.cp0.status.isc = true →
    s.loadWord w true = .ok (s.dataLookup w).word { s with cp0 := { s.cp0 with
      status := { s.cp0.status with
        cm := !(s.dataLookup w).hit, pe := s.cp0.status.pe || (s.dataLookup w).parityError } } }) ∧
  ∀ (s : State) (w : WordAddr) (v : Word) (l : Lanes), s.cp0.status.isc = true →
    s.cp0.status.pz = false →
    (∃ t u, s.storeWord w true allLanes v = .ok () t ∧ t.mem = s.mem ∧
      t.writeBuffer = s.writeBuffer ∧ AccessKeeps s t ∧
      t.loadWord w true = .ok v u ∧ u.cp0.status.cm = false ∧ AccessKeeps s u ∧
      u.mem = s.mem ∧ u.writeBuffer = s.writeBuffer ∧
      (if s.cp0.status.swc then t.dcache = s.dcache else t.icache = s.icache)) ∧
    (l ≠ allLanes → ∃ t u x, s.storeWord w true l v = .ok () t ∧ t.mem = s.mem ∧
      t.writeBuffer = s.writeBuffer ∧ AccessKeeps s t ∧
      t.loadWord w true = .ok x u ∧ u.cp0.status.cm = true ∧
      (if s.cp0.status.swc then t.dcache = s.dcache else t.icache = s.icache)) ∧
    s.loadWord w false = .refused .isolatedUncached ∧
    s.storeWord w false l v = .refused .isolatedUncached

/-- MFC0 of every CP0 register: the value pending for rt, and the frame (R28, R34, R131, R291,
R442). With CP0 usable MFC0 completes and its value is pending for rt like a load: the register's
word for Index, Random, EntryLo, EntryHi (E versions), Config, Context, BadVAddr, Status, Cause
(with the live interrupt lines), EPC and PRId; some word for those four on base versions and for a
reserved register (R34, R28, log 13); outside isolation Status.CM is free (R131, log 31). Nothing
else changes. -/
def Obligations.Mfc0Results : Prop :=
  ∀ (s : State) (rt rd : Reg), Cp0Ready s →
    (s.chip.hasTlb = true →
      DeferredResult s rt (indexWord s.cp0.index) (exec (.mfc0 rt 0) s) ∧
      DeferredResult s rt (randomWord s.cp0.random) (exec (.mfc0 rt 1) s) ∧
      DeferredResult s rt (entryLoWord s.cp0.entryLo) (exec (.mfc0 rt 2) s) ∧
      DeferredResult s rt (entryHiWord s.cp0.entryHi) (exec (.mfc0 rt 10) s)) ∧
    DeferredResult s rt (configWord s.chip s.cp0.config) (exec (.mfc0 rt 3) s) ∧
    DeferredResult s rt (contextWord s.cp0.context) (exec (.mfc0 rt 4) s) ∧
    DeferredResult s rt s.cp0.badVAddr (exec (.mfc0 rt 8) s) ∧
    (∃ cm : Bool, (s.cp0.status.isc = true → cm = s.cp0.status.cm) ∧
      DeferredResult s rt (statusWord { s.cp0.status with cm := cm }) (exec (.mfc0 rt 12) s)) ∧
    DeferredResult s rt (causeWord s.cp0.cause s.interruptLines) (exec (.mfc0 rt 13) s) ∧
    DeferredResult s rt s.cp0.epc (exec (.mfc0 rt 14) s) ∧
    DeferredResult s rt 0x00000230 (exec (.mfc0 rt 15) s) ∧
    (∃ v, DeferredResult s rt v (exec (.mfc0 rt rd) s))

/-- MTC0 to Index, EntryLo, EntryHi, Context, Cause and the read-only registers (R29, R30, R31, R34,
R35, R50, R290, R500, R507, R509, D12, D25). With CP0 usable MTC0 completes: Index, EntryLo and
EntryHi take their fields of rt on E versions and nothing changes on base versions; Context takes
PTEBase only; Cause takes Sw only; a write to Random, BadVAddr, EPC, PRId or a reserved register
changes nothing. Three of these are the model's choice (log 14, DESIGN CHOICE): that Index takes P
from bit 31 of rt (D25; R29 leaves open whether MTC0 writes P), that the bits of reserved fields are
dropped (D10), and that the registers with no write path keep their value (D12). The next
instruction stands in the window of R507 after a write of Index, EntryLo or EntryHi, and no
instruction but MTC0 leaves it in that window or in that of R509; this takes in instructions that
end in an exception, whose entry closes the window of R507 by R500, and that of R509 by the model's
choice (log 56, DESIGN CHOICE). Every other CP0 register (but the free-running Random), the TLB, the
caches, memory and all other registers are unchanged. -/
def Obligations.Mtc0Results : Prop :=
  (∀ (i : Instr) (s t : State), exec i s = .next t → t.seq.waiting = false →
    (∀ rt rd, i ≠ .mtc0 rt rd) → t.seq.cp0WriteWindow = false ∧ t.seq.cacheCtlWindow = false) ∧
  ∀ (s : State) (rt rd : Reg), Cp0Ready s →
    SystemResult s (fun t => t.tlb = s.tlb ∧ KeepsCaches s t ∧
        t.seq.cp0WriteWindow = true ∧ t.seq.cacheCtlWindow = false ∧ t.cp0 =
        { s.cp0 with random := t.cp0.random, index := if s.chip.hasTlb then
          ⟨(s.readReg rt).getLsbD 31, (s.readReg rt).extractLsb' 8 6⟩ else s.cp0.index })
      (exec (.mtc0 rt 0) s) ∧
    SystemResult s (fun t => t.tlb = s.tlb ∧ KeepsCaches s t ∧
        t.seq.cp0WriteWindow = true ∧ t.seq.cacheCtlWindow = false ∧ t.cp0 =
        { s.cp0 with random := t.cp0.random, entryLo := if s.chip.hasTlb then
          ⟨(s.readReg rt).extractLsb' 12 20, (s.readReg rt).getLsbD 11, (s.readReg rt).getLsbD 10,
            (s.readReg rt).getLsbD 9, (s.readReg rt).getLsbD 8⟩ else s.cp0.entryLo })
      (exec (.mtc0 rt 2) s) ∧
    SystemResult s (fun t => t.tlb = s.tlb ∧ KeepsCaches s t ∧
        t.seq.cp0WriteWindow = true ∧ t.seq.cacheCtlWindow = false ∧ t.cp0 =
        { s.cp0 with random := t.cp0.random, entryHi := if s.chip.hasTlb then
          ⟨(s.readReg rt).extractLsb' 12 20, (s.readReg rt).extractLsb' 6 6⟩ else s.cp0.entryHi })
      (exec (.mtc0 rt 10) s) ∧
    SystemResult s (fun t => t.tlb = s.tlb ∧ KeepsCaches s t ∧
        t.seq.cp0WriteWindow = false ∧ t.seq.cacheCtlWindow = false ∧ t.cp0 =
        { s.cp0 with random := t.cp0.random, context :=
          ⟨(s.readReg rt).extractLsb' 21 11, s.cp0.context.badVpn⟩ })
      (exec (.mtc0 rt 4) s) ∧
    SystemResult s (fun t => t.tlb = s.tlb ∧ KeepsCaches s t ∧
        t.seq.cp0WriteWindow = false ∧ t.seq.cacheCtlWindow = false ∧ t.cp0 =
        { s.cp0 with random := t.cp0.random, cause :=
          { s.cp0.cause with sw := (s.readReg rt).extractLsb' 8 2 } })
      (exec (.mtc0 rt 13) s) ∧
    ((rd = 1 ∨ (5 ≤ rd.toNat ∧ rd.toNat ≤ 9) ∨ rd = 11 ∨ 14 ≤ rd.toNat) →
      SystemResult s (fun t => t.tlb = s.tlb ∧ KeepsCaches s t ∧
        t.seq.cp0WriteWindow = false ∧ t.seq.cacheCtlWindow = false ∧
          t.cp0 = { s.cp0 with random := t.cp0.random })
        (exec (.mtc0 rt rd) s))

/-- MTC0 to Status and to Config: read-only TS, PE cleared by 1, Lock, AC, reserved FPInt, the
windows they open, and how long (R37, R42, R49, R53, R54, R57, R127, R509, R511, D38). With CP0
usable. MTC0 to Status writes every bit but TS, which is kept, and PE, which a written 1 clears, and
opens the window of R509 exactly when it changes IsC or SwC; such a change is refused when this
instruction or the one before it was fetched from a cacheable address (R509, log 33). MTC0 to
Config: with Lock in force it changes nothing and is one more instruction of an open window; else
every field but Rev is written and a window of ten instructions opens, a change of AC leaving every
tag and data word of both caches undefined (R127); a reserved FPInt on a part with an FPA is refused
(D38, log 18). The field in force (Lock, DBRefill, FPInt, Halt, AC) is the written one outside the
window, and the old or the written one inside it (R511); the old fields of a write inside the window
are those then in force; an instruction that completes counts the window down by one; exception
entry leaves the window and its old fields as they are, so that an instruction that takes an
exception, like one that waits for the bus, does not count (these last are the model's choice, log
16, DESIGN CHOICE). No instruction changes the notes of how it and the one before it were fetched,
and neither does exception entry, which is the model's choice (log 56, DESIGN CHOICE). -/
def Obligations.StatusAndConfigWrites : Prop :=
  (∀ (s : State) (rt : Reg), Cp0Ready s →
    ((((s.readReg rt).getLsbD 16 = s.cp0.status.isc ∧ (s.readReg rt).getLsbD 17 = s.cp0.status.swc) ∨
        (s.seq.fetchCached = false ∧ s.seq.prevFetchCached = false)) →
      SystemResult s (fun t => t.tlb = s.tlb ∧ KeepsCaches s t ∧
          t.cp0 = { s.cp0 with random := t.cp0.random, status := t.cp0.status } ∧
          t.seq.cp0WriteWindow = false ∧
          (t.seq.cacheCtlWindow = false ↔ ((s.readReg rt).getLsbD 16 = s.cp0.status.isc ∧
            (s.readReg rt).getLsbD 17 = s.cp0.status.swc)) ∧
          statusWord t.cp0.status = ((s.readReg rt) &&& 0xf24fff3f) |||
            (statusWord s.cp0.status &&& 0x00200000) |||
            (statusWord s.cp0.status &&& 0x00100000 &&& ~~~(s.readReg rt)))
        (exec (.mtc0 rt 12) s)) ∧
    (¬ ((s.readReg rt).getLsbD 16 = s.cp0.status.isc ∧ (s.readReg rt).getLsbD 17 = s.cp0.status.swc) →
      (s.seq.fetchCached = true ∨ s.seq.prevFetchCached = true) →
      exec (.mtc0 rt 12) s = .refused .cacheControlCached) ∧
    (s.lockInForce = true →
      SystemResult s (fun t => t.tlb = s.tlb ∧ KeepsCaches s t ∧
        t.seq.configWindow = s.seq.configWindow - 1 ∧ t.seq.configOld = s.seq.configOld ∧
        t.cp0 = { s.cp0 with random := t.cp0.random }) (exec (.mtc0 rt 3) s)) ∧
    (s.lockInForce = false →
      (s.chip.hasFpa = false ∨ ((s.readReg rt).extractLsb' 26 3).toNat < 6) →
      SystemResult s (fun t => t.tlb = s.tlb ∧
        t.cp0 = { s.cp0 with random := t.cp0.random, config := t.cp0.config } ∧
        t.seq.configWindow = 10 ∧ t.seq.configOld = s.configInForce ∧
        configWord s.chip t.cp0.config = ((s.readReg rt) &&& 0xff800000) |||
          (configWord s.chip s.cp0.config &&& 0x00400000) ∧
        (if (s.readReg rt).getLsbD 23 = s.cp0.config.ac then KeepsCaches s t
          else t.icache.tagsUndefined = true ∧ t.dcache.tagsUndefined = true ∧
            ∀ n k, t.icache.tagAt k = none ∧ t.dcache.tagAt k = none ∧
              (t.icache.dataAt n k).word = Config.freeWord .cacheWord n ∧
              (t.dcache.dataAt n k).word = Config.freeWord .cacheWord n))
        (exec (.mtc0 rt 3) s)) ∧
    (s.lockInForce = false → s.chip.hasFpa = true →
      6 ≤ ((s.readReg rt).extractLsb' 26 3).toNat →
      exec (.mtc0 rt 3) s = .refused .reservedFpInt)) ∧
  (∀ s : State,
    s.configInForce = { s.cp0.config with
      lock := s.lockInForce, dbRefill := s.dbRefillInForce, fpInt := s.fpIntInForce,
      halt := s.haltInForce, ac := s.acInForce } ∧
    (s.seq.configWindow = 0 → s.configInForce = s.cp0.config) ∧
    (s.lockInForce = s.cp0.config.lock ∨ s.lockInForce = s.seq.configOld.lock) ∧
    (s.dbRefillInForce = s.cp0.config.dbRefill ∨
      s.dbRefillInForce = s.seq.configOld.dbRefill) ∧
    (s.fpIntInForce = s.cp0.config.fpInt ∨ s.fpIntInForce = s.seq.configOld.fpInt) ∧
    (s.haltInForce = s.cp0.config.halt ∨ s.haltInForce = s.seq.configOld.halt) ∧
    (s.acInForce = s.cp0.config.ac ∨ s.acInForce = s.seq.configOld.ac)) ∧
  (∀ (s : State) (x : Exc), (s.takeException x).seq.configWindow = s.seq.configWindow ∧
    (s.takeException x).seq.configOld = s.seq.configOld ∧
    (s.takeException x).seq.fetchCached = s.seq.fetchCached ∧
    (s.takeException x).seq.prevFetchCached = s.seq.prevFetchCached) ∧
  (∀ (i : Instr) (s t : State), exec i s = .next t →
    t.seq.fetchCached = s.seq.fetchCached ∧ t.seq.prevFetchCached = s.seq.prevFetchCached ∧
    ((∀ rt, i ≠ .mtc0 rt 3) → t.seq.configOld = s.seq.configOld ∧
      ((t.pc = s.nextPc ∧ t.seq.configWindow = s.seq.configWindow - 1) ∨
        ((EndsInException s t ∨ EndsInWait s t) ∧ t.seq.configWindow = s.seq.configWindow))))

/-- TLBR, TLBWI, TLBWR, TLBP: effect, frame, and where they stop (R108, R292, R293, R294, R295,
R298, R507, D40). With CP0 usable, a TLB present and no MTC0 to Index, EntryLo or EntryHi just
before. TLBR loads EntryHi and EntryLo from the entry Index selects; TLBWI and TLBWR write that
entry, or the one Random selects, with EntryHi and EntryLo and no other entry; TLBP sets Index to
the one matching entry with P = 0, or P = 1 if none (the index is then free, D40), and is refused if
two match. Nothing else changes. On a base version, or right after such an MTC0, they are refused
(D24; R507). -/
def Obligations.TlbInstructionResults : Prop :=
  (∀ s : State, Cp0Ready s → s.chip.hasTlb = true → s.seq.cp0WriteWindow = false →
    SystemResult s (fun t => t.tlb = s.tlb ∧ KeepsCaches s t ∧
        t.cp0 = { s.cp0 with
          random := t.cp0.random
          entryHi := (s.tlbEntry s.cp0.index.index).hi
          entryLo := (s.tlbEntry s.cp0.index.index).lo }) (exec .tlbr s) ∧
    SystemResult s (fun t => KeepsCaches s t ∧ t.cp0 = { s.cp0 with random := t.cp0.random } ∧
        ∀ j, t.tlbEntry j = if j = s.cp0.index.index then ⟨s.cp0.entryHi, s.cp0.entryLo⟩
          else s.tlbEntry j) (exec .tlbwi s) ∧
    SystemResult s (fun t => KeepsCaches s t ∧ t.cp0 = { s.cp0 with random := t.cp0.random } ∧
        ∀ j, t.tlbEntry j = if j = s.cp0.random then ⟨s.cp0.entryHi, s.cp0.entryLo⟩
          else s.tlbEntry j) (exec .tlbwr s) ∧
    (∀ i, (∀ j, ((s.tlbEntry j).hi.vpn = s.cp0.entryHi.vpn ∧
        ((s.tlbEntry j).lo.g = true ∨ (s.tlbEntry j).hi.pid = s.cp0.entryHi.pid)) ↔ j = i) →
      SystemResult s (fun t => t.tlb = s.tlb ∧ KeepsCaches s t ∧
        t.cp0 = { s.cp0 with random := t.cp0.random, index := ⟨false, i⟩ }) (exec .tlbp s)) ∧
    ((∀ j, ¬ ((s.tlbEntry j).hi.vpn = s.cp0.entryHi.vpn ∧
        ((s.tlbEntry j).lo.g = true ∨ (s.tlbEntry j).hi.pid = s.cp0.entryHi.pid))) →
      SystemResult s (fun t => t.tlb = s.tlb ∧ KeepsCaches s t ∧ t.cp0.index.p = true ∧
        t.cp0 = { s.cp0 with random := t.cp0.random, index := t.cp0.index }) (exec .tlbp s)) ∧
    (∀ i j, i ≠ j → (s.tlbEntry i).maps s.cp0.entryHi.vpn s.cp0.entryHi.pid = true →
      (s.tlbEntry j).maps s.cp0.entryHi.vpn s.cp0.entryHi.pid = true →
      exec .tlbp s = .refused .tlbMultipleMatch)) ∧
  (∀ (s : State) (i : Instr), Cp0Ready s → (i = .tlbr ∨ i = .tlbwi ∨ i = .tlbwr ∨ i = .tlbp) →
    (s.chip.hasTlb = false → exec i s = .refused .tlbAbsent) ∧
    (s.chip.hasTlb = true → s.seq.cp0WriteWindow = true → exec i s = .refused .cp0WriteWindow))

/-- LWC1, SWC1, MFC1, MTC1, CFC1, CTC1: result and frame (R64, R345, R346, R347, R348, R349, R350,
R367, R450, D27). With the FPA ready: LWC1 (from kseg1) leaves the memory word pending for the FGR,
SWC1 (to kseg1) stores the FGR, MFC1 leaves the FGR pending for rt, MTC1 leaves rt pending for the
FGR; CFC1 reads FCR0, or FCR31 with free reserved bits; CTC1 to FCR31 writes its fields, BC1T and
BC1F right after it still seeing the old C or the new one, and alone decides the interrupt line
(R450, log 28), and to FCR0 nothing; another control register is refused (D27). Nothing else
changes. -/
def Obligations.FpaMoveResults : Prop :=
  ∀ (s : State) (base rt fs : Reg) (offset : BitVec 16), FpaReady s →
    (UncachedAccess s (s.effectiveAddress base offset) →
      (s.effectiveAddress base offset).toNat % 4 = 0 →
      DeferredFpResult s fs (s.wordAt (unmappedAddress (s.effectiveAddress base offset)).toNat)
        (exec (.lwc1 base fs offset) s) ∧
      StoreBytesResult s
        (Width.word.bytes s.mode.bigEndian (unmappedAddress (s.effectiveAddress base offset)).toNat
          (s.readFgr fs)) (exec (.swc1 base fs offset) s)) ∧
    DeferredResult s rt (s.readFgr fs) (exec (.mfc1 rt fs) s) ∧
    DeferredFpResult s fs (s.readReg rt) (exec (.mtc1 rt fs) s) ∧
    (∃ f : Word, DeferredResult s rt (fcr31Word f s.fcr31) (exec (.cfc1 rt 31) s)) ∧
    DeferredResult s rt ((0x000003#24) ++ s.chip.fcr0Rev) (exec (.cfc1 rt 0) s) ∧
    ControlResult s ⟨(s.readReg rt).getLsbD 23, (s.readReg rt).extractLsb' 12 6,
      (s.readReg rt).extractLsb' 7 5, (s.readReg rt).extractLsb' 2 5,
      (s.readReg rt).extractLsb' 0 2⟩ false (some s.fcr31.c) (exec (.ctc1 rt 31) s) ∧
    ControlResult s s.fcr31 s.fpaHeld none (exec (.ctc1 rt 0) s) ∧
    (fs ≠ 0 → fs ≠ 31 → exec (.cfc1 rt fs) s = .refused .reservedFcr ∧
      exec (.ctc1 rt fs) s = .refused .reservedFcr)

/-- ADD, SUB, MUL, DIV in both formats: values on numbers, registers, FCR31, trap (R342, R343, R344,
R352, R353, R354, R355, R369, R450, R455, D35). With the FPA ready and even registers: when the
operation's exceptions (V with its TrapEnable bit clear becomes E alone, every other set is kept,
R342) raise no trap the instruction completes, the FPR holds the value of its rule (a single leaves
FGR[fd+1] unspecified), Exceptions hold its exceptions, Sticky accumulates them, C is kept and
nothing else changes; otherwise it traps: no FGR is written, the interrupt line is asserted, and Int
is taken on it if the FPA interrupt is enabled, else it completes (D35, log 28, DESIGN CHOICE); a
line asserted before stays so. An odd register is refused (D21). The value rules on numbers (zeros
and normalized numbers; denormalized ones are screened): the exact sum, difference, product or
quotient, rounded and finished by R369; an exact zero sum or difference is +0, or -0 under RM = 3,
but the sum of zeros of one sign keeps it; a zero product or quotient has the product of the signs:
these signs of zeros are what R352 to R355 mark as general knowledge (log 27, PRESUMED). -/
def Obligations.FpaArithmeticResults : Prop :=
  (∀ (s : State) (r : FpOutcome), s.fpSettled r =
    if r.exceptions.getLsbD 4 = true ∧ s.fcr31.enables.getLsbD 4 = false then 0x20
    else r.exceptions) ∧
  (∀ (s : State) (ft fs fd : Reg), FpaReady s → ft.getLsbD 0 = false → fs.getLsbD 0 = false →
    fd.getLsbD 0 = false →
    FpOperationResult s
      (fpAdd s.tinyAfter single s.fcr31.rm (s.readSingle fs) (s.readSingle ft))
      (SingleIn s fd ((fpAdd s.tinyAfter single s.fcr31.rm (s.readSingle fs) (s.readSingle ft)).value.extractLsb' 0 32))
      (exec (.addS ft fs fd) s) ∧
    FpOperationResult s
      (fpSub s.tinyAfter single s.fcr31.rm (s.readSingle fs) (s.readSingle ft))
      (SingleIn s fd ((fpSub s.tinyAfter single s.fcr31.rm (s.readSingle fs) (s.readSingle ft)).value.extractLsb' 0 32))
      (exec (.subS ft fs fd) s) ∧
    FpOperationResult s
      (fpMul s.tinyAfter single s.fcr31.rm (s.readSingle fs) (s.readSingle ft))
      (SingleIn s fd ((fpMul s.tinyAfter single s.fcr31.rm (s.readSingle fs) (s.readSingle ft)).value.extractLsb' 0 32))
      (exec (.mulS ft fs fd) s) ∧
    FpOperationResult s
      (fpDiv s.tinyAfter single s.fcr31.rm (s.readSingle fs) (s.readSingle ft))
      (SingleIn s fd ((fpDiv s.tinyAfter single s.fcr31.rm (s.readSingle fs) (s.readSingle ft)).value.extractLsb' 0 32))
      (exec (.divS ft fs fd) s) ∧
    FpOperationResult s
      (fpAdd s.tinyAfter double s.fcr31.rm (s.readDouble fs) (s.readDouble ft))
      (DoubleIn s fd (fpAdd s.tinyAfter double s.fcr31.rm (s.readDouble fs) (s.readDouble ft)).value)
      (exec (.addD ft fs fd) s) ∧
    FpOperationResult s
      (fpSub s.tinyAfter double s.fcr31.rm (s.readDouble fs) (s.readDouble ft))
      (DoubleIn s fd (fpSub s.tinyAfter double s.fcr31.rm (s.readDouble fs) (s.readDouble ft)).value)
      (exec (.subD ft fs fd) s) ∧
    FpOperationResult s
      (fpMul s.tinyAfter double s.fcr31.rm (s.readDouble fs) (s.readDouble ft))
      (DoubleIn s fd (fpMul s.tinyAfter double s.fcr31.rm (s.readDouble fs) (s.readDouble ft)).value)
      (exec (.mulD ft fs fd) s) ∧
    FpOperationResult s
      (fpDiv s.tinyAfter double s.fcr31.rm (s.readDouble fs) (s.readDouble ft))
      (DoubleIn s fd (fpDiv s.tinyAfter double s.fcr31.rm (s.readDouble fs) (s.readDouble ft)).value)
      (exec (.divD ft fs fd) s)) ∧
  (∀ (s : State) (ft fs fd : Reg) (i : Instr), FpaReady s →
    (ft.getLsbD 0 = true ∨ fs.getLsbD 0 = true ∨ fd.getLsbD 0 = true) →
    (i = .addS ft fs fd ∨ i = .addD ft fs fd ∨ i = .subS ft fs fd ∨ i = .subD ft fs fd ∨
      i = .mulS ft fs fd ∨ i = .mulD ft fs fd ∨ i = .divS ft fs fd ∨ i = .divD ft fs fd) →
    exec i s = .refused .oddFpr) ∧
  (∀ (tiny : Bool) (f : Format) (rm : BitVec 2) (x y : Raw),
    (f.value x).isNumber = true → (f.value y).isNumber = true →
    (f.value x).isDenorm = false → (f.value y).isDenorm = false →
    (if (f.value x).toRat + (f.value y).toRat = 0 then
      fpAdd tiny f rm x y = ⟨0, f.zero (if (f.value x).negative = (f.value y).negative then
        (f.value x).negative else rm == 3)⟩
    else FinishesAs tiny f rm ((f.value x).toRat + (f.value y).toRat) (fpAdd tiny f rm x y)) ∧
    (if (f.value x).toRat - (f.value y).toRat = 0 then
      fpSub tiny f rm x y = ⟨0, f.zero (if (f.value x).negative ≠ (f.value y).negative then
        (f.value x).negative else rm == 3)⟩
    else FinishesAs tiny f rm ((f.value x).toRat - (f.value y).toRat) (fpSub tiny f rm x y)) ∧
    (if (f.value x).toRat * (f.value y).toRat = 0 then
      fpMul tiny f rm x y = ⟨0, f.zero ((f.value x).negative != (f.value y).negative)⟩
    else FinishesAs tiny f rm ((f.value x).toRat * (f.value y).toRat) (fpMul tiny f rm x y)) ∧
    ((f.value y).toRat ≠ 0 →
      if (f.value x).toRat = 0 then
        fpDiv tiny f rm x y = ⟨0, f.zero ((f.value x).negative != (f.value y).negative)⟩
      else FinishesAs tiny f rm ((f.value x).toRat / (f.value y).toRat) (fpDiv tiny f rm x y)))

/-- ABS, NEG, MOV and the six conversions: values, registers, FCR31, trap (R342, R343, R344, R351, R356,
R357, R358, R360, R361, R362, R369, D35). With the FPA ready and even registers, each completes or
traps exactly as the two-operand operations do (V with its TrapEnable bit clear becomes E alone,
every other set is kept, R342; that a trap with its interrupt masked completes without a result is
D35, log 28, DESIGN CHOICE), with the value of its own rule in the destination (single and fixed-
point results leave FGR[fd+1] unspecified). An odd register is refused (D21). MOV copies any pattern
with no exception; ABS and NEG clear and invert the sign bit. ABS, NEG and the conversions between
formats screen: a signaling NaN raises V, a quiet NaN or denormalized number E (R351); CVT.W, for
which R362 gives V on any NaN, is in FpaSpecialOperands. A conversion between formats keeps
infinities and zeros (general knowledge by R360, log 27, PRESUMED) and rounds numbers by R369,
single to double exactly; from fixed point 0 gives +0, other integers are rounded, to double
exactly; to fixed point the number is rounded to an integer by RM, V if it does not fit in 32 bits,
I if inexact. -/
def Obligations.FpaUnaryResults : Prop :=
  (∀ (s : State) (r : FpOutcome), s.fpSettled r =
    if r.exceptions.getLsbD 4 = true ∧ s.fcr31.enables.getLsbD 4 = false then 0x20
    else r.exceptions) ∧
  (∀ (s : State) (fs fd : Reg), FpaReady s → fs.getLsbD 0 = false → fd.getLsbD 0 = false →
    FpOperationResult s (fpAbs single (s.readSingle fs))
      (SingleIn s fd ((fpAbs single (s.readSingle fs)).value.extractLsb' 0 32))
      (exec (.absS fs fd) s) ∧
    FpOperationResult s (fpAbs double (s.readDouble fs))
      (DoubleIn s fd (fpAbs double (s.readDouble fs)).value)
      (exec (.absD fs fd) s) ∧
    FpOperationResult s (fpNeg single (s.readSingle fs))
      (SingleIn s fd ((fpNeg single (s.readSingle fs)).value.extractLsb' 0 32))
      (exec (.negS fs fd) s) ∧
    FpOperationResult s (fpNeg double (s.readDouble fs))
      (DoubleIn s fd (fpNeg double (s.readDouble fs)).value)
      (exec (.negD fs fd) s) ∧
    FpOperationResult s (fpMov (s.readSingle fs))
      (SingleIn s fd ((fpMov (s.readSingle fs)).value.extractLsb' 0 32))
      (exec (.movS fs fd) s) ∧
    FpOperationResult s (fpMov (s.readDouble fs))
      (DoubleIn s fd (fpMov (s.readDouble fs)).value)
      (exec (.movD fs fd) s) ∧
    FpOperationResult s (fpConvert s.tinyAfter double single s.fcr31.rm (s.readDouble fs))
      (SingleIn s fd ((fpConvert s.tinyAfter double single s.fcr31.rm (s.readDouble fs)).value.extractLsb' 0 32))
      (exec (.cvtSD fs fd) s) ∧
    FpOperationResult s (fpConvert s.tinyAfter single double s.fcr31.rm (s.readSingle fs))
      (DoubleIn s fd (fpConvert s.tinyAfter single double s.fcr31.rm (s.readSingle fs)).value)
      (exec (.cvtDS fs fd) s) ∧
    FpOperationResult s (fpOfFixed s.tinyAfter single s.fcr31.rm (s.readSingle fs))
      (SingleIn s fd ((fpOfFixed s.tinyAfter single s.fcr31.rm (s.readSingle fs)).value.extractLsb' 0 32))
      (exec (.cvtSW fs fd) s) ∧
    FpOperationResult s (fpOfFixed s.tinyAfter double s.fcr31.rm (s.readSingle fs))
      (DoubleIn s fd (fpOfFixed s.tinyAfter double s.fcr31.rm (s.readSingle fs)).value)
      (exec (.cvtDW fs fd) s) ∧
    FpOperationResult s (fpToFixed single s.fcr31.rm (s.readSingle fs))
      (SingleIn s fd ((fpToFixed single s.fcr31.rm (s.readSingle fs)).value.extractLsb' 0 32))
      (exec (.cvtWS fs fd) s) ∧
    FpOperationResult s (fpToFixed double s.fcr31.rm (s.readDouble fs))
      (SingleIn s fd ((fpToFixed double s.fcr31.rm (s.readDouble fs)).value.extractLsb' 0 32))
      (exec (.cvtWD fs fd) s)) ∧
  (∀ (s : State) (fs fd : Reg) (i : Instr), FpaReady s → (fs.getLsbD 0 = true ∨ fd.getLsbD 0 = true) →
    (i = .absS fs fd ∨ i = .absD fs fd ∨ i = .negS fs fd ∨ i = .negD fs fd ∨ i = .movS fs fd ∨
      i = .movD fs fd ∨ i = .cvtSD fs fd ∨ i = .cvtDS fs fd ∨ i = .cvtSW fs fd ∨ i = .cvtDW fs fd ∨
      i = .cvtWS fs fd ∨ i = .cvtWD fs fd) →
    exec i s = .refused .oddFpr) ∧
  (∀ x : Raw, fpMov x = ⟨0, x⟩) ∧
  (∀ x : Raw, x.toNat < 2 ^ 32 → screen [single.value x] = none →
    fpAbs single x = ⟨0, x &&& 0x7fffffff⟩ ∧ fpNeg single x = ⟨0, x ^^^ 0x80000000⟩) ∧
  (∀ x : Raw, screen [double.value x] = none →
    fpAbs double x = ⟨0, x &&& 0x7fffffffffffffff⟩ ∧ fpNeg double x = ⟨0, x ^^^ 0x8000000000000000⟩) ∧
  (∀ (tiny : Bool) (f g : Format) (rm : BitVec 2) (x : Raw),
    ((f.value x).isSnan = true →
      fpAbs f x = ⟨0x10, 0⟩ ∧ fpNeg f x = ⟨0x10, 0⟩ ∧ fpConvert tiny f g rm x = ⟨0x10, 0⟩) ∧
    (((f.value x).isQnan = true ∨ (f.value x).isDenorm = true) →
      fpAbs f x = ⟨0x20, 0⟩ ∧ fpNeg f x = ⟨0x20, 0⟩ ∧ fpConvert tiny f g rm x = ⟨0x20, 0⟩) ∧
    (∀ n, f.value x = .inf n → fpConvert tiny f g rm x = ⟨0, g.infinity n⟩) ∧
    (∀ n, f.value x = .zero n →
      fpConvert tiny f g rm x = ⟨0, g.zero n⟩ ∧ fpToFixed f rm x = ⟨0, 0⟩) ∧
    (∀ n m e, f.value x = .finite n false m e →
      FinishesAs tiny g rm (f.value x).toRat (fpConvert tiny f g rm x) ∧
      ∀ k : Int, RoundsToInt rm (f.value x).toRat k →
        ((k < -(2 ^ 31) ∨ 2 ^ 31 - 1 < k) → fpToFixed f rm x = ⟨0x10, 0⟩) ∧
        ((-(2 ^ 31) ≤ k ∧ k ≤ 2 ^ 31 - 1) → fpToFixed f rm x =
          ⟨if (f.value x).toRat = k then 0 else 0x01, (BitVec.ofInt 32 k).setWidth 64⟩)) ∧
    ((x.extractLsb' 0 32).toInt = 0 → fpOfFixed tiny g rm x = ⟨0, g.zero false⟩) ∧
    ((x.extractLsb' 0 32).toInt ≠ 0 →
      FinishesAs tiny g rm ((x.extractLsb' 0 32).toInt : ℚ) (fpOfFixed tiny g rm x))) ∧
  (∀ (tiny : Bool) (rm : BitVec 2) (x : Raw),
    (∀ n m e, single.value x = .finite n false m e →
      fpConvert tiny single double rm x = ⟨0, double.normal n (m * 2 ^ 29) (e + 23)⟩) ∧
    (fpOfFixed tiny double rm x).exceptions = 0 ∧
    (double.value (fpOfFixed tiny double rm x).value).toRat = ((x.extractLsb' 0 32).toInt : ℚ))

/-- The thirty-two compares: condition, C and its delay, V and its trap (R324, R325, R326, R342,
R343, R364, R365, R367, R455, D20, D35). With the FPA ready and even registers each compare
completes: Exceptions are V when the operands are unordered and cond[3] is set, else none; C becomes
the condition of the operands' relation, which BC1T and BC1F see one instruction later; no FGR
changes. A V whose trap is enabled traps with C unchanged; with the interrupt masked it then
completes, which is D35 (log 28, DESIGN CHOICE) (an untrapped V of a compare is not turned into E).
That a compare never gives E and treats every NaN alike is decision D20 (log 26, DESIGN CHOICE). The
relation: unordered if either is a NaN, else by value, the zeros equal, infinities beyond every
number, which R326 marks as general knowledge (log 27, PRESUMED); the condition is cond[2] for less,
cond[1] for equal, cond[0] for unordered, false for greater. An odd register is refused (D21). -/
def Obligations.FpaCompareResults : Prop :=
  (∀ (s : State) (ft fs : Reg), FpaReady s → ft.getLsbD 0 = false → fs.getLsbD 0 = false →
    FpCompareResult s 0x0
      (relation (single.value (s.readSingle fs)) (single.value (s.readSingle ft))) (exec (.cFS ft fs) s) ∧
    FpCompareResult s 0x0
      (relation (double.value (s.readDouble fs)) (double.value (s.readDouble ft))) (exec (.cFD ft fs) s) ∧
    FpCompareResult s 0x1
      (relation (single.value (s.readSingle fs)) (single.value (s.readSingle ft))) (exec (.cUnS ft fs) s) ∧
    FpCompareResult s 0x1
      (relation (double.value (s.readDouble fs)) (double.value (s.readDouble ft))) (exec (.cUnD ft fs) s) ∧
    FpCompareResult s 0x2
      (relation (single.value (s.readSingle fs)) (single.value (s.readSingle ft))) (exec (.cEqS ft fs) s) ∧
    FpCompareResult s 0x2
      (relation (double.value (s.readDouble fs)) (double.value (s.readDouble ft))) (exec (.cEqD ft fs) s) ∧
    FpCompareResult s 0x3
      (relation (single.value (s.readSingle fs)) (single.value (s.readSingle ft))) (exec (.cUeqS ft fs) s) ∧
    FpCompareResult s 0x3
      (relation (double.value (s.readDouble fs)) (double.value (s.readDouble ft))) (exec (.cUeqD ft fs) s) ∧
    FpCompareResult s 0x4
      (relation (single.value (s.readSingle fs)) (single.value (s.readSingle ft))) (exec (.cOltS ft fs) s) ∧
    FpCompareResult s 0x4
      (relation (double.value (s.readDouble fs)) (double.value (s.readDouble ft))) (exec (.cOltD ft fs) s) ∧
    FpCompareResult s 0x5
      (relation (single.value (s.readSingle fs)) (single.value (s.readSingle ft))) (exec (.cUltS ft fs) s) ∧
    FpCompareResult s 0x5
      (relation (double.value (s.readDouble fs)) (double.value (s.readDouble ft))) (exec (.cUltD ft fs) s) ∧
    FpCompareResult s 0x6
      (relation (single.value (s.readSingle fs)) (single.value (s.readSingle ft))) (exec (.cOleS ft fs) s) ∧
    FpCompareResult s 0x6
      (relation (double.value (s.readDouble fs)) (double.value (s.readDouble ft))) (exec (.cOleD ft fs) s) ∧
    FpCompareResult s 0x7
      (relation (single.value (s.readSingle fs)) (single.value (s.readSingle ft))) (exec (.cUleS ft fs) s) ∧
    FpCompareResult s 0x7
      (relation (double.value (s.readDouble fs)) (double.value (s.readDouble ft))) (exec (.cUleD ft fs) s) ∧
    FpCompareResult s 0x8
      (relation (single.value (s.readSingle fs)) (single.value (s.readSingle ft))) (exec (.cSfS ft fs) s) ∧
    FpCompareResult s 0x8
      (relation (double.value (s.readDouble fs)) (double.value (s.readDouble ft))) (exec (.cSfD ft fs) s) ∧
    FpCompareResult s 0x9
      (relation (single.value (s.readSingle fs)) (single.value (s.readSingle ft))) (exec (.cNgleS ft fs) s) ∧
    FpCompareResult s 0x9
      (relation (double.value (s.readDouble fs)) (double.value (s.readDouble ft))) (exec (.cNgleD ft fs) s) ∧
    FpCompareResult s 0xa
      (relation (single.value (s.readSingle fs)) (single.value (s.readSingle ft))) (exec (.cSeqS ft fs) s) ∧
    FpCompareResult s 0xa
      (relation (double.value (s.readDouble fs)) (double.value (s.readDouble ft))) (exec (.cSeqD ft fs) s) ∧
    FpCompareResult s 0xb
      (relation (single.value (s.readSingle fs)) (single.value (s.readSingle ft))) (exec (.cNglS ft fs) s) ∧
    FpCompareResult s 0xb
      (relation (double.value (s.readDouble fs)) (double.value (s.readDouble ft))) (exec (.cNglD ft fs) s) ∧
    FpCompareResult s 0xc
      (relation (single.value (s.readSingle fs)) (single.value (s.readSingle ft))) (exec (.cLtS ft fs) s) ∧
    FpCompareResult s 0xc
      (relation (double.value (s.readDouble fs)) (double.value (s.readDouble ft))) (exec (.cLtD ft fs) s) ∧
    FpCompareResult s 0xd
      (relation (single.value (s.readSingle fs)) (single.value (s.readSingle ft))) (exec (.cNgeS ft fs) s) ∧
    FpCompareResult s 0xd
      (relation (double.value (s.readDouble fs)) (double.value (s.readDouble ft))) (exec (.cNgeD ft fs) s) ∧
    FpCompareResult s 0xe
      (relation (single.value (s.readSingle fs)) (single.value (s.readSingle ft))) (exec (.cLeS ft fs) s) ∧
    FpCompareResult s 0xe
      (relation (double.value (s.readDouble fs)) (double.value (s.readDouble ft))) (exec (.cLeD ft fs) s) ∧
    FpCompareResult s 0xf
      (relation (single.value (s.readSingle fs)) (single.value (s.readSingle ft))) (exec (.cNgtS ft fs) s) ∧
    FpCompareResult s 0xf
      (relation (double.value (s.readDouble fs)) (double.value (s.readDouble ft))) (exec (.cNgtD ft fs) s)) ∧
  (∀ (s : State) (ft fs : Reg) (i : Instr), FpaReady s → (ft.getLsbD 0 = true ∨ fs.getLsbD 0 = true) →
    opField (encode i) = 0x11 → (rsField (encode i) = 16 ∨ rsField (encode i) = 17) →
    48 ≤ (functField (encode i)).toNat → rtField (encode i) = ft → rdField (encode i) = fs →
    exec i s = .refused .oddFpr) ∧
  (∀ a b : FpValue,
    ((a.isNan = true ∨ b.isNan = true) → relation a b = .unordered) ∧
    (a.isNumber = true → b.isNumber = true → relation a b =
      if a.toRat < b.toRat then .less else if a.toRat = b.toRat then .equal else .greater) ∧
    (∀ n, a = .inf n → b.isNan = false →
      relation a b = if b = .inf n then .equal else if n then .less else .greater) ∧
    (∀ n, b = .inf n → a.isNan = false →
      relation a b = if a = .inf n then .equal else if n then .greater else .less)) ∧
  (∀ (c : BitVec 4) (r : Relation),
    (conditionHolds c r = true ↔ (r = .less ∧ c.getLsbD 2 = true) ∨
      (r = .equal ∧ c.getLsbD 1 = true) ∨ (r = .unordered ∧ c.getLsbD 0 = true)) ∧
    compareExceptions c r = if r = .unordered ∧ c.getLsbD 3 = true then 0x10 else 0)

/-- FPA screening and special operands: NaNs, denormalized numbers, infinities, zeros (R351, R352,
R353, R354, R355, R362, D34). In ADD, SUB, MUL and DIV of either format: a signaling NaN operand
raises V; else a quiet NaN raises E; else a denormalized operand raises E (the order for operands of
different classes is decision D34, log 26, DESIGN CHOICE). Then an infinity in either place gives
the infinity or zero of R352 to R355, and infinities that agree give that infinity: results the spec
marks as general knowledge (log 27, PRESUMED). And infinities of opposite sign added, infinities of
one sign subtracted, zero times infinity, 0/0 and infinity/infinity raise V; a non-zero finite
number over zero raises Z with the correctly signed infinity; CVT.W of a NaN or infinity raises V
and of a denormalized number E. -/
def Obligations.FpaSpecialOperands : Prop :=
  ∀ (tiny : Bool) (f : Format) (rm : BitVec 2) (x y : Raw),
    (((f.value x).isSnan = true ∨ (f.value y).isSnan = true) →
      fpAdd tiny f rm x y = ⟨0x10, 0⟩ ∧ fpSub tiny f rm x y = ⟨0x10, 0⟩ ∧
      fpMul tiny f rm x y = ⟨0x10, 0⟩ ∧ fpDiv tiny f rm x y = ⟨0x10, 0⟩) ∧
    ((f.value x).isSnan = false → (f.value y).isSnan = false →
      ((f.value x).isQnan = true ∨ (f.value y).isQnan = true ∨ (f.value x).isDenorm = true ∨
        (f.value y).isDenorm = true) →
      fpAdd tiny f rm x y = ⟨0x20, 0⟩ ∧ fpSub tiny f rm x y = ⟨0x20, 0⟩ ∧
      fpMul tiny f rm x y = ⟨0x20, 0⟩ ∧ fpDiv tiny f rm x y = ⟨0x20, 0⟩) ∧
    (∀ n, f.value x = .inf n →
      (f.value y = .inf (!n) → fpAdd tiny f rm x y = ⟨0x10, 0⟩) ∧
      (f.value y = .inf n → fpSub tiny f rm x y = ⟨0x10, 0⟩) ∧
      (∀ m, f.value y = .zero m → fpMul tiny f rm x y = ⟨0x10, 0⟩ ∧ fpMul tiny f rm y x = ⟨0x10, 0⟩) ∧
      (∀ m, f.value y = .inf m → fpDiv tiny f rm x y = ⟨0x10, 0⟩) ∧
      (∀ m k e, f.value y = .finite m false k e →
        fpAdd tiny f rm x y = ⟨0, f.infinity n⟩ ∧ fpSub tiny f rm x y = ⟨0, f.infinity n⟩ ∧
        fpMul tiny f rm x y = ⟨0, f.infinity (n != m)⟩ ∧
        fpDiv tiny f rm x y = ⟨0, f.infinity (n != m)⟩ ∧
        fpAdd tiny f rm y x = ⟨0, f.infinity n⟩ ∧ fpSub tiny f rm y x = ⟨0, f.infinity (!n)⟩ ∧
        fpMul tiny f rm y x = ⟨0, f.infinity (n != m)⟩ ∧ fpDiv tiny f rm y x = ⟨0, f.zero (n != m)⟩) ∧
      (∀ m, f.value y = .zero m →
        fpAdd tiny f rm x y = ⟨0, f.infinity n⟩ ∧ fpSub tiny f rm x y = ⟨0, f.infinity n⟩ ∧
        fpDiv tiny f rm x y = ⟨0, f.infinity (n != m)⟩ ∧
        fpAdd tiny f rm y x = ⟨0, f.infinity n⟩ ∧ fpSub tiny f rm y x = ⟨0, f.infinity (!n)⟩ ∧
        fpDiv tiny f rm y x = ⟨0, f.zero (n != m)⟩) ∧
      (f.value y = .inf n → fpAdd tiny f rm x y = ⟨0, f.infinity n⟩) ∧
      (f.value y = .inf (!n) → fpSub tiny f rm x y = ⟨0, f.infinity n⟩) ∧
      (∀ m, f.value y = .inf m → fpMul tiny f rm x y = ⟨0, f.infinity (n != m)⟩)) ∧
    (∀ n m, f.value x = .zero n → f.value y = .zero m → fpDiv tiny f rm x y = ⟨0x10, 0⟩) ∧
    (∀ n m k e, f.value x = .finite n false k e → f.value y = .zero m →
      fpDiv tiny f rm x y = ⟨0x08, f.infinity (n != m)⟩) ∧
    ((∃ b, f.value x = .nan b ∨ f.value x = .inf b) → fpToFixed f rm x = ⟨0x10, 0⟩) ∧
    ((f.value x).isDenorm = true → fpToFixed f rm x = ⟨0x20, 0⟩)

/-- The rounding of FPA results is correct rounding in each of the four modes (R321). For a positive
magnitude num/den and a precision of at least 2 bits, the rounded significand has exactly that many
bits, inexact holds exactly when the rounded value differs from the magnitude, and the rounded value
is: RN within half a unit in the last place, even in a tie, and no representable value is nearer; RZ
the largest representable value not above; RP and RM the nearest on the required side (away from
zero for a positive result under RP and a negative one under RM, toward zero otherwise).
Representable is any k times a power of two with k below 2^prec, the exponent unbounded. Where the
result is a power of two above the magnitude the spacing below it is half its unit, and the bounds
are halved with it. -/
def Obligations.RoundingIsCorrect : Prop :=
  ∀ (prec : Nat) (rm : BitVec 2) (neg : Bool) (num den : Nat), 2 ≤ prec → 0 < num → 0 < den →
    ∀ m e inexact, roundMagnitude prec rm neg num den = ⟨m, e, inexact⟩ →
    ∀ x v u : ℚ, x = (num : ℚ) / den → u = 2 ^ (e - (prec - 1)) → v = m * u →
    2 ^ (prec - 1) ≤ m ∧ m < 2 ^ prec ∧ (inexact = true ↔ v ≠ x) ∧
    (rm = 0 →
      |v - x| * 2 ≤ u ∧ (|v - x| * 2 = u → m % 2 = 0) ∧
      (m = 2 ^ (prec - 1) → x < v → |v - x| * 4 ≤ u) ∧
      (∀ (k : Nat) (d : Int) (y : ℚ), k < 2 ^ prec → y = k * 2 ^ d →
        |v - x| ≤ |y - x| ∧ (|v - x| = |y - x| → y ≠ v → m % 2 = 0))) ∧
    ((rm = 1 ∨ (rm = 2 ∧ neg = true) ∨ (rm = 3 ∧ neg = false)) →
      v ≤ x ∧ x < v + u ∧
      (∀ (k : Nat) (d : Int) (y : ℚ), k < 2 ^ prec → y = k * 2 ^ d → y ≤ x → y ≤ v)) ∧
    (((rm = 2 ∧ neg = false) ∨ (rm = 3 ∧ neg = true)) →
      x ≤ v ∧ v < x + u ∧ (m = 2 ^ (prec - 1) → v < x + u / 2) ∧
      (∀ (k : Nat) (d : Int) (y : ℚ), k < 2 ^ prec → y = k * 2 ^ d → x ≤ y → v ≤ y))

/-- The two formats as bit fields, and finishing a numeric result: tiny, overflow, inexact, exact
(R312, R313, R314, R315, R316, R319, R330, R369). The value of every single and double pattern by
its sign, exponent and fraction fields, a NaN signaling when the top fraction bit is set; the
patterns of the zeros, the infinities and the largest numbers; the pattern of a normalized number
has that number as its value. For a non-zero magnitude num/den rounded to the format: below the
smallest normalized exponent (after rounding, or also before it where the part tests so, R330) the
outcome is E; above the largest it is O and I with the overflow default of the rounding mode;
otherwise the normalized pattern, with I exactly when the rounding was inexact. -/
def Obligations.NumericResults : Prop :=
  (∀ x : Raw,
    single.value x =
      (if x.extractLsb' 23 8 = 0xff#8 then
        if x.extractLsb' 0 23 = 0 then .inf (x.getLsbD 31) else .nan (x.getLsbD 22)
      else if x.extractLsb' 23 8 = 0 then
        if x.extractLsb' 0 23 = 0 then .zero (x.getLsbD 31)
        else .finite (x.getLsbD 31) true (x.extractLsb' 0 23).toNat (-149)
      else .finite (x.getLsbD 31) false (2 ^ 23 + (x.extractLsb' 0 23).toNat)
        ((x.extractLsb' 23 8).toNat - 150)) ∧
    double.value x =
      (if x.extractLsb' 52 11 = 0x7ff#11 then
        if x.extractLsb' 0 52 = 0 then .inf (x.getLsbD 63) else .nan (x.getLsbD 51)
      else if x.extractLsb' 52 11 = 0 then
        if x.extractLsb' 0 52 = 0 then .zero (x.getLsbD 63)
        else .finite (x.getLsbD 63) true (x.extractLsb' 0 52).toNat (-1074)
      else .finite (x.getLsbD 63) false (2 ^ 52 + (x.extractLsb' 0 52).toNat)
        ((x.extractLsb' 52 11).toNat - 1075))) ∧
  (single.zero false = 0 ∧ single.zero true = 0x80000000 ∧
    single.infinity false = 0x7f800000 ∧ single.infinity true = 0xff800000 ∧
    single.largest false = 0x7f7fffff ∧ single.largest true = 0xff7fffff ∧
    double.zero false = 0 ∧ double.zero true = 0x8000000000000000 ∧
    double.infinity false = 0x7ff0000000000000 ∧ double.infinity true = 0xfff0000000000000 ∧
    double.largest false = 0x7fefffffffffffff ∧ double.largest true = 0xffefffffffffffff) ∧
  (∀ (n : Bool) (m : Nat) (e : Int),
    (2 ^ 23 ≤ m → m < 2 ^ 24 → -126 ≤ e → e ≤ 127 →
      single.value (single.normal n m e) = .finite n false m (e - 23)) ∧
    (2 ^ 52 ≤ m → m < 2 ^ 53 → -1022 ≤ e → e ≤ 1023 →
      double.value (double.normal n m e) = .finite n false m (e - 52))) ∧
  ∀ (tiny : Bool) (f : Format) (rm : BitVec 2) (neg : Bool) (num den m : Nat) (e : Int) (inexact : Bool),
    roundMagnitude f.prec rm neg num den = ⟨m, e, inexact⟩ →
    (e < f.emin → finishNumeric tiny f rm neg num den = ⟨0x20, 0⟩) ∧
    (f.emin ≤ e → (tiny = true ∨ f.emin ≤ floorLog2 num den) → e ≤ f.emax →
      finishNumeric tiny f rm neg num den = ⟨if inexact then 0x01 else 0, f.normal neg m e⟩) ∧
    (f.emin ≤ e → (tiny = true ∨ f.emin ≤ floorLog2 num den) → f.emax < e →
      finishNumeric tiny f rm neg num den = ⟨0x05,
        if rm = 0 ∨ (rm = 2 ∧ neg = false) ∨ (rm = 3 ∧ neg = true) then f.infinity neg
        else f.largest neg⟩) ∧
    (f.emin ≤ e → tiny = false → floorLog2 num den < f.emin →
      finishNumeric tiny f rm neg num den = ⟨0x20, 0⟩)
end

