-- ==== Sys2Proof/Laws/State.lean ====
section
/-! SUPPORT. One lemma per field per update of State, so that no proof unfolds a record update. -/

namespace Sys2Proof.Machine

@[simp] theorem State.withCp0_chip (s : State) (v : Cp0) : (s.withCp0 v).chip = s.chip := rfl
@[simp] theorem State.withCp0_mode (s : State) (v : Cp0) : (s.withCp0 v).mode = s.mode := rfl
@[simp] theorem State.withCp0_gpr (s : State) (v : Cp0) : (s.withCp0 v).gpr = s.gpr := rfl
@[simp] theorem State.withCp0_hi (s : State) (v : Cp0) : (s.withCp0 v).hi = s.hi := rfl
@[simp] theorem State.withCp0_lo (s : State) (v : Cp0) : (s.withCp0 v).lo = s.lo := rfl
@[simp] theorem State.withCp0_pc (s : State) (v : Cp0) : (s.withCp0 v).pc = s.pc := rfl
@[simp] theorem State.withCp0_nextPc (s : State) (v : Cp0) : (s.withCp0 v).nextPc = s.nextPc := rfl
@[simp] theorem State.withCp0_cp0 (s : State) (v : Cp0) : (s.withCp0 v).cp0 = v := rfl
@[simp] theorem State.withCp0_tlb (s : State) (v : Cp0) : (s.withCp0 v).tlb = s.tlb := rfl
@[simp] theorem State.withCp0_fgr (s : State) (v : Cp0) : (s.withCp0 v).fgr = s.fgr := rfl
@[simp] theorem State.withCp0_fcr31 (s : State) (v : Cp0) : (s.withCp0 v).fcr31 = s.fcr31 := rfl
@[simp] theorem State.withCp0_fpaHeld (s : State) (v : Cp0) : (s.withCp0 v).fpaHeld = s.fpaHeld := rfl
@[simp] theorem State.withCp0_icache (s : State) (v : Cp0) : (s.withCp0 v).icache = s.icache := rfl
@[simp] theorem State.withCp0_dcache (s : State) (v : Cp0) : (s.withCp0 v).dcache = s.dcache := rfl
@[simp] theorem State.withCp0_mem (s : State) (v : Cp0) : (s.withCp0 v).mem = s.mem := rfl
@[simp] theorem State.withCp0_writeBuffer (s : State) (v : Cp0) : (s.withCp0 v).writeBuffer = s.writeBuffer := rfl
@[simp] theorem State.withCp0_readBuffer (s : State) (v : Cp0) : (s.withCp0 v).readBuffer = s.readBuffer := rfl
@[simp] theorem State.withCp0_seq (s : State) (v : Cp0) : (s.withCp0 v).seq = s.seq := rfl
@[simp] theorem State.withCp0_env (s : State) (v : Cp0) : (s.withCp0 v).env = s.env := rfl
@[simp] theorem State.withCp0_inputs (s : State) (v : Cp0) : (s.withCp0 v).inputs = s.inputs := rfl

@[simp] theorem State.withStatus_chip (s : State) (v : StatusReg) : (s.withStatus v).chip = s.chip := rfl
@[simp] theorem State.withStatus_mode (s : State) (v : StatusReg) : (s.withStatus v).mode = s.mode := rfl
@[simp] theorem State.withStatus_gpr (s : State) (v : StatusReg) : (s.withStatus v).gpr = s.gpr := rfl
@[simp] theorem State.withStatus_hi (s : State) (v : StatusReg) : (s.withStatus v).hi = s.hi := rfl
@[simp] theorem State.withStatus_lo (s : State) (v : StatusReg) : (s.withStatus v).lo = s.lo := rfl
@[simp] theorem State.withStatus_pc (s : State) (v : StatusReg) : (s.withStatus v).pc = s.pc := rfl
@[simp] theorem State.withStatus_nextPc (s : State) (v : StatusReg) : (s.withStatus v).nextPc = s.nextPc := rfl
@[simp] theorem State.withStatus_cp0 (s : State) (v : StatusReg) : (s.withStatus v).cp0 = { s.cp0 with status := v } := rfl
@[simp] theorem State.withStatus_tlb (s : State) (v : StatusReg) : (s.withStatus v).tlb = s.tlb := rfl
@[simp] theorem State.withStatus_fgr (s : State) (v : StatusReg) : (s.withStatus v).fgr = s.fgr := rfl
@[simp] theorem State.withStatus_fcr31 (s : State) (v : StatusReg) : (s.withStatus v).fcr31 = s.fcr31 := rfl
@[simp] theorem State.withStatus_fpaHeld (s : State) (v : StatusReg) : (s.withStatus v).fpaHeld = s.fpaHeld := rfl
@[simp] theorem State.withStatus_icache (s : State) (v : StatusReg) : (s.withStatus v).icache = s.icache := rfl
@[simp] theorem State.withStatus_dcache (s : State) (v : StatusReg) : (s.withStatus v).dcache = s.dcache := rfl
@[simp] theorem State.withStatus_mem (s : State) (v : StatusReg) : (s.withStatus v).mem = s.mem := rfl
@[simp] theorem State.withStatus_writeBuffer (s : State) (v : StatusReg) : (s.withStatus v).writeBuffer = s.writeBuffer := rfl
@[simp] theorem State.withStatus_readBuffer (s : State) (v : StatusReg) : (s.withStatus v).readBuffer = s.readBuffer := rfl
@[simp] theorem State.withStatus_seq (s : State) (v : StatusReg) : (s.withStatus v).seq = s.seq := rfl
@[simp] theorem State.withStatus_env (s : State) (v : StatusReg) : (s.withStatus v).env = s.env := rfl
@[simp] theorem State.withStatus_inputs (s : State) (v : StatusReg) : (s.withStatus v).inputs = s.inputs := rfl

@[simp] theorem State.withIndex_chip (s : State) (v : IndexReg) : (s.withIndex v).chip = s.chip := rfl
@[simp] theorem State.withIndex_mode (s : State) (v : IndexReg) : (s.withIndex v).mode = s.mode := rfl
@[simp] theorem State.withIndex_gpr (s : State) (v : IndexReg) : (s.withIndex v).gpr = s.gpr := rfl
@[simp] theorem State.withIndex_hi (s : State) (v : IndexReg) : (s.withIndex v).hi = s.hi := rfl
@[simp] theorem State.withIndex_lo (s : State) (v : IndexReg) : (s.withIndex v).lo = s.lo := rfl
@[simp] theorem State.withIndex_pc (s : State) (v : IndexReg) : (s.withIndex v).pc = s.pc := rfl
@[simp] theorem State.withIndex_nextPc (s : State) (v : IndexReg) : (s.withIndex v).nextPc = s.nextPc := rfl
@[simp] theorem State.withIndex_cp0 (s : State) (v : IndexReg) : (s.withIndex v).cp0 = { s.cp0 with index := v } := rfl
@[simp] theorem State.withIndex_tlb (s : State) (v : IndexReg) : (s.withIndex v).tlb = s.tlb := rfl
@[simp] theorem State.withIndex_fgr (s : State) (v : IndexReg) : (s.withIndex v).fgr = s.fgr := rfl
@[simp] theorem State.withIndex_fcr31 (s : State) (v : IndexReg) : (s.withIndex v).fcr31 = s.fcr31 := rfl
@[simp] theorem State.withIndex_fpaHeld (s : State) (v : IndexReg) : (s.withIndex v).fpaHeld = s.fpaHeld := rfl
@[simp] theorem State.withIndex_icache (s : State) (v : IndexReg) : (s.withIndex v).icache = s.icache := rfl
@[simp] theorem State.withIndex_dcache (s : State) (v : IndexReg) : (s.withIndex v).dcache = s.dcache := rfl
@[simp] theorem State.withIndex_mem (s : State) (v : IndexReg) : (s.withIndex v).mem = s.mem := rfl
@[simp] theorem State.withIndex_writeBuffer (s : State) (v : IndexReg) : (s.withIndex v).writeBuffer = s.writeBuffer := rfl
@[simp] theorem State.withIndex_readBuffer (s : State) (v : IndexReg) : (s.withIndex v).readBuffer = s.readBuffer := rfl
@[simp] theorem State.withIndex_seq (s : State) (v : IndexReg) : (s.withIndex v).seq = s.seq := rfl
@[simp] theorem State.withIndex_env (s : State) (v : IndexReg) : (s.withIndex v).env = s.env := rfl
@[simp] theorem State.withIndex_inputs (s : State) (v : IndexReg) : (s.withIndex v).inputs = s.inputs := rfl

@[simp] theorem State.withEntryLo_chip (s : State) (v : EntryLo) : (s.withEntryLo v).chip = s.chip := rfl
@[simp] theorem State.withEntryLo_mode (s : State) (v : EntryLo) : (s.withEntryLo v).mode = s.mode := rfl
@[simp] theorem State.withEntryLo_gpr (s : State) (v : EntryLo) : (s.withEntryLo v).gpr = s.gpr := rfl
@[simp] theorem State.withEntryLo_hi (s : State) (v : EntryLo) : (s.withEntryLo v).hi = s.hi := rfl
@[simp] theorem State.withEntryLo_lo (s : State) (v : EntryLo) : (s.withEntryLo v).lo = s.lo := rfl
@[simp] theorem State.withEntryLo_pc (s : State) (v : EntryLo) : (s.withEntryLo v).pc = s.pc := rfl
@[simp] theorem State.withEntryLo_nextPc (s : State) (v : EntryLo) : (s.withEntryLo v).nextPc = s.nextPc := rfl
@[simp] theorem State.withEntryLo_cp0 (s : State) (v : EntryLo) : (s.withEntryLo v).cp0 = { s.cp0 with entryLo := v } := rfl
@[simp] theorem State.withEntryLo_tlb (s : State) (v : EntryLo) : (s.withEntryLo v).tlb = s.tlb := rfl
@[simp] theorem State.withEntryLo_fgr (s : State) (v : EntryLo) : (s.withEntryLo v).fgr = s.fgr := rfl
@[simp] theorem State.withEntryLo_fcr31 (s : State) (v : EntryLo) : (s.withEntryLo v).fcr31 = s.fcr31 := rfl
@[simp] theorem State.withEntryLo_fpaHeld (s : State) (v : EntryLo) : (s.withEntryLo v).fpaHeld = s.fpaHeld := rfl
@[simp] theorem State.withEntryLo_icache (s : State) (v : EntryLo) : (s.withEntryLo v).icache = s.icache := rfl
@[simp] theorem State.withEntryLo_dcache (s : State) (v : EntryLo) : (s.withEntryLo v).dcache = s.dcache := rfl
@[simp] theorem State.withEntryLo_mem (s : State) (v : EntryLo) : (s.withEntryLo v).mem = s.mem := rfl
@[simp] theorem State.withEntryLo_writeBuffer (s : State) (v : EntryLo) : (s.withEntryLo v).writeBuffer = s.writeBuffer := rfl
@[simp] theorem State.withEntryLo_readBuffer (s : State) (v : EntryLo) : (s.withEntryLo v).readBuffer = s.readBuffer := rfl
@[simp] theorem State.withEntryLo_seq (s : State) (v : EntryLo) : (s.withEntryLo v).seq = s.seq := rfl
@[simp] theorem State.withEntryLo_env (s : State) (v : EntryLo) : (s.withEntryLo v).env = s.env := rfl
@[simp] theorem State.withEntryLo_inputs (s : State) (v : EntryLo) : (s.withEntryLo v).inputs = s.inputs := rfl

@[simp] theorem State.withEntryHi_chip (s : State) (v : EntryHi) : (s.withEntryHi v).chip = s.chip := rfl
@[simp] theorem State.withEntryHi_mode (s : State) (v : EntryHi) : (s.withEntryHi v).mode = s.mode := rfl
@[simp] theorem State.withEntryHi_gpr (s : State) (v : EntryHi) : (s.withEntryHi v).gpr = s.gpr := rfl
@[simp] theorem State.withEntryHi_hi (s : State) (v : EntryHi) : (s.withEntryHi v).hi = s.hi := rfl
@[simp] theorem State.withEntryHi_lo (s : State) (v : EntryHi) : (s.withEntryHi v).lo = s.lo := rfl
@[simp] theorem State.withEntryHi_pc (s : State) (v : EntryHi) : (s.withEntryHi v).pc = s.pc := rfl
@[simp] theorem State.withEntryHi_nextPc (s : State) (v : EntryHi) : (s.withEntryHi v).nextPc = s.nextPc := rfl
@[simp] theorem State.withEntryHi_cp0 (s : State) (v : EntryHi) : (s.withEntryHi v).cp0 = { s.cp0 with entryHi := v } := rfl
@[simp] theorem State.withEntryHi_tlb (s : State) (v : EntryHi) : (s.withEntryHi v).tlb = s.tlb := rfl
@[simp] theorem State.withEntryHi_fgr (s : State) (v : EntryHi) : (s.withEntryHi v).fgr = s.fgr := rfl
@[simp] theorem State.withEntryHi_fcr31 (s : State) (v : EntryHi) : (s.withEntryHi v).fcr31 = s.fcr31 := rfl
@[simp] theorem State.withEntryHi_fpaHeld (s : State) (v : EntryHi) : (s.withEntryHi v).fpaHeld = s.fpaHeld := rfl
@[simp] theorem State.withEntryHi_icache (s : State) (v : EntryHi) : (s.withEntryHi v).icache = s.icache := rfl
@[simp] theorem State.withEntryHi_dcache (s : State) (v : EntryHi) : (s.withEntryHi v).dcache = s.dcache := rfl
@[simp] theorem State.withEntryHi_mem (s : State) (v : EntryHi) : (s.withEntryHi v).mem = s.mem := rfl
@[simp] theorem State.withEntryHi_writeBuffer (s : State) (v : EntryHi) : (s.withEntryHi v).writeBuffer = s.writeBuffer := rfl
@[simp] theorem State.withEntryHi_readBuffer (s : State) (v : EntryHi) : (s.withEntryHi v).readBuffer = s.readBuffer := rfl
@[simp] theorem State.withEntryHi_seq (s : State) (v : EntryHi) : (s.withEntryHi v).seq = s.seq := rfl
@[simp] theorem State.withEntryHi_env (s : State) (v : EntryHi) : (s.withEntryHi v).env = s.env := rfl
@[simp] theorem State.withEntryHi_inputs (s : State) (v : EntryHi) : (s.withEntryHi v).inputs = s.inputs := rfl

@[simp] theorem State.withConfig_chip (s : State) (v : ConfigReg) : (s.withConfig v).chip = s.chip := rfl
@[simp] theorem State.withConfig_mode (s : State) (v : ConfigReg) : (s.withConfig v).mode = s.mode := rfl
@[simp] theorem State.withConfig_gpr (s : State) (v : ConfigReg) : (s.withConfig v).gpr = s.gpr := rfl
@[simp] theorem State.withConfig_hi (s : State) (v : ConfigReg) : (s.withConfig v).hi = s.hi := rfl
@[simp] theorem State.withConfig_lo (s : State) (v : ConfigReg) : (s.withConfig v).lo = s.lo := rfl
@[simp] theorem State.withConfig_pc (s : State) (v : ConfigReg) : (s.withConfig v).pc = s.pc := rfl
@[simp] theorem State.withConfig_nextPc (s : State) (v : ConfigReg) : (s.withConfig v).nextPc = s.nextPc := rfl
@[simp] theorem State.withConfig_cp0 (s : State) (v : ConfigReg) : (s.withConfig v).cp0 = { s.cp0 with config := v } := rfl
@[simp] theorem State.withConfig_tlb (s : State) (v : ConfigReg) : (s.withConfig v).tlb = s.tlb := rfl
@[simp] theorem State.withConfig_fgr (s : State) (v : ConfigReg) : (s.withConfig v).fgr = s.fgr := rfl
@[simp] theorem State.withConfig_fcr31 (s : State) (v : ConfigReg) : (s.withConfig v).fcr31 = s.fcr31 := rfl
@[simp] theorem State.withConfig_fpaHeld (s : State) (v : ConfigReg) : (s.withConfig v).fpaHeld = s.fpaHeld := rfl
@[simp] theorem State.withConfig_icache (s : State) (v : ConfigReg) : (s.withConfig v).icache = s.icache := rfl
@[simp] theorem State.withConfig_dcache (s : State) (v : ConfigReg) : (s.withConfig v).dcache = s.dcache := rfl
@[simp] theorem State.withConfig_mem (s : State) (v : ConfigReg) : (s.withConfig v).mem = s.mem := rfl
@[simp] theorem State.withConfig_writeBuffer (s : State) (v : ConfigReg) : (s.withConfig v).writeBuffer = s.writeBuffer := rfl
@[simp] theorem State.withConfig_readBuffer (s : State) (v : ConfigReg) : (s.withConfig v).readBuffer = s.readBuffer := rfl
@[simp] theorem State.withConfig_seq (s : State) (v : ConfigReg) : (s.withConfig v).seq = s.seq := rfl
@[simp] theorem State.withConfig_env (s : State) (v : ConfigReg) : (s.withConfig v).env = s.env := rfl
@[simp] theorem State.withConfig_inputs (s : State) (v : ConfigReg) : (s.withConfig v).inputs = s.inputs := rfl

@[simp] theorem State.withContext_chip (s : State) (v : ContextReg) : (s.withContext v).chip = s.chip := rfl
@[simp] theorem State.withContext_mode (s : State) (v : ContextReg) : (s.withContext v).mode = s.mode := rfl
@[simp] theorem State.withContext_gpr (s : State) (v : ContextReg) : (s.withContext v).gpr = s.gpr := rfl
@[simp] theorem State.withContext_hi (s : State) (v : ContextReg) : (s.withContext v).hi = s.hi := rfl
@[simp] theorem State.withContext_lo (s : State) (v : ContextReg) : (s.withContext v).lo = s.lo := rfl
@[simp] theorem State.withContext_pc (s : State) (v : ContextReg) : (s.withContext v).pc = s.pc := rfl
@[simp] theorem State.withContext_nextPc (s : State) (v : ContextReg) : (s.withContext v).nextPc = s.nextPc := rfl
@[simp] theorem State.withContext_cp0 (s : State) (v : ContextReg) : (s.withContext v).cp0 = { s.cp0 with context := v } := rfl
@[simp] theorem State.withContext_tlb (s : State) (v : ContextReg) : (s.withContext v).tlb = s.tlb := rfl
@[simp] theorem State.withContext_fgr (s : State) (v : ContextReg) : (s.withContext v).fgr = s.fgr := rfl
@[simp] theorem State.withContext_fcr31 (s : State) (v : ContextReg) : (s.withContext v).fcr31 = s.fcr31 := rfl
@[simp] theorem State.withContext_fpaHeld (s : State) (v : ContextReg) : (s.withContext v).fpaHeld = s.fpaHeld := rfl
@[simp] theorem State.withContext_icache (s : State) (v : ContextReg) : (s.withContext v).icache = s.icache := rfl
@[simp] theorem State.withContext_dcache (s : State) (v : ContextReg) : (s.withContext v).dcache = s.dcache := rfl
@[simp] theorem State.withContext_mem (s : State) (v : ContextReg) : (s.withContext v).mem = s.mem := rfl
@[simp] theorem State.withContext_writeBuffer (s : State) (v : ContextReg) : (s.withContext v).writeBuffer = s.writeBuffer := rfl
@[simp] theorem State.withContext_readBuffer (s : State) (v : ContextReg) : (s.withContext v).readBuffer = s.readBuffer := rfl
@[simp] theorem State.withContext_seq (s : State) (v : ContextReg) : (s.withContext v).seq = s.seq := rfl
@[simp] theorem State.withContext_env (s : State) (v : ContextReg) : (s.withContext v).env = s.env := rfl
@[simp] theorem State.withContext_inputs (s : State) (v : ContextReg) : (s.withContext v).inputs = s.inputs := rfl

@[simp] theorem State.withCause_chip (s : State) (v : CauseReg) : (s.withCause v).chip = s.chip := rfl
@[simp] theorem State.withCause_mode (s : State) (v : CauseReg) : (s.withCause v).mode = s.mode := rfl
@[simp] theorem State.withCause_gpr (s : State) (v : CauseReg) : (s.withCause v).gpr = s.gpr := rfl
@[simp] theorem State.withCause_hi (s : State) (v : CauseReg) : (s.withCause v).hi = s.hi := rfl
@[simp] theorem State.withCause_lo (s : State) (v : CauseReg) : (s.withCause v).lo = s.lo := rfl
@[simp] theorem State.withCause_pc (s : State) (v : CauseReg) : (s.withCause v).pc = s.pc := rfl
@[simp] theorem State.withCause_nextPc (s : State) (v : CauseReg) : (s.withCause v).nextPc = s.nextPc := rfl
@[simp] theorem State.withCause_cp0 (s : State) (v : CauseReg) : (s.withCause v).cp0 = { s.cp0 with cause := v } := rfl
@[simp] theorem State.withCause_tlb (s : State) (v : CauseReg) : (s.withCause v).tlb = s.tlb := rfl
@[simp] theorem State.withCause_fgr (s : State) (v : CauseReg) : (s.withCause v).fgr = s.fgr := rfl
@[simp] theorem State.withCause_fcr31 (s : State) (v : CauseReg) : (s.withCause v).fcr31 = s.fcr31 := rfl
@[simp] theorem State.withCause_fpaHeld (s : State) (v : CauseReg) : (s.withCause v).fpaHeld = s.fpaHeld := rfl
@[simp] theorem State.withCause_icache (s : State) (v : CauseReg) : (s.withCause v).icache = s.icache := rfl
@[simp] theorem State.withCause_dcache (s : State) (v : CauseReg) : (s.withCause v).dcache = s.dcache := rfl
@[simp] theorem State.withCause_mem (s : State) (v : CauseReg) : (s.withCause v).mem = s.mem := rfl
@[simp] theorem State.withCause_writeBuffer (s : State) (v : CauseReg) : (s.withCause v).writeBuffer = s.writeBuffer := rfl
@[simp] theorem State.withCause_readBuffer (s : State) (v : CauseReg) : (s.withCause v).readBuffer = s.readBuffer := rfl
@[simp] theorem State.withCause_seq (s : State) (v : CauseReg) : (s.withCause v).seq = s.seq := rfl
@[simp] theorem State.withCause_env (s : State) (v : CauseReg) : (s.withCause v).env = s.env := rfl
@[simp] theorem State.withCause_inputs (s : State) (v : CauseReg) : (s.withCause v).inputs = s.inputs := rfl

@[simp] theorem State.withFcr31_chip (s : State) (v : Fcr31) : (s.withFcr31 v).chip = s.chip := rfl
@[simp] theorem State.withFcr31_mode (s : State) (v : Fcr31) : (s.withFcr31 v).mode = s.mode := rfl
@[simp] theorem State.withFcr31_gpr (s : State) (v : Fcr31) : (s.withFcr31 v).gpr = s.gpr := rfl
@[simp] theorem State.withFcr31_hi (s : State) (v : Fcr31) : (s.withFcr31 v).hi = s.hi := rfl
@[simp] theorem State.withFcr31_lo (s : State) (v : Fcr31) : (s.withFcr31 v).lo = s.lo := rfl
@[simp] theorem State.withFcr31_pc (s : State) (v : Fcr31) : (s.withFcr31 v).pc = s.pc := rfl
@[simp] theorem State.withFcr31_nextPc (s : State) (v : Fcr31) : (s.withFcr31 v).nextPc = s.nextPc := rfl
@[simp] theorem State.withFcr31_cp0 (s : State) (v : Fcr31) : (s.withFcr31 v).cp0 = s.cp0 := rfl
@[simp] theorem State.withFcr31_tlb (s : State) (v : Fcr31) : (s.withFcr31 v).tlb = s.tlb := rfl
@[simp] theorem State.withFcr31_fgr (s : State) (v : Fcr31) : (s.withFcr31 v).fgr = s.fgr := rfl
@[simp] theorem State.withFcr31_fcr31 (s : State) (v : Fcr31) : (s.withFcr31 v).fcr31 = v := rfl
@[simp] theorem State.withFcr31_fpaHeld (s : State) (v : Fcr31) : (s.withFcr31 v).fpaHeld = s.fpaHeld := rfl
@[simp] theorem State.withFcr31_icache (s : State) (v : Fcr31) : (s.withFcr31 v).icache = s.icache := rfl
@[simp] theorem State.withFcr31_dcache (s : State) (v : Fcr31) : (s.withFcr31 v).dcache = s.dcache := rfl
@[simp] theorem State.withFcr31_mem (s : State) (v : Fcr31) : (s.withFcr31 v).mem = s.mem := rfl
@[simp] theorem State.withFcr31_writeBuffer (s : State) (v : Fcr31) : (s.withFcr31 v).writeBuffer = s.writeBuffer := rfl
@[simp] theorem State.withFcr31_readBuffer (s : State) (v : Fcr31) : (s.withFcr31 v).readBuffer = s.readBuffer := rfl
@[simp] theorem State.withFcr31_seq (s : State) (v : Fcr31) : (s.withFcr31 v).seq = s.seq := rfl
@[simp] theorem State.withFcr31_env (s : State) (v : Fcr31) : (s.withFcr31 v).env = s.env := rfl
@[simp] theorem State.withFcr31_inputs (s : State) (v : Fcr31) : (s.withFcr31 v).inputs = s.inputs := rfl

@[simp] theorem State.recordFp_chip (s : State) (e : FpExceptions) : (s.recordFp e).chip = s.chip := rfl
@[simp] theorem State.recordFp_mode (s : State) (e : FpExceptions) : (s.recordFp e).mode = s.mode := rfl
@[simp] theorem State.recordFp_gpr (s : State) (e : FpExceptions) : (s.recordFp e).gpr = s.gpr := rfl
@[simp] theorem State.recordFp_hi (s : State) (e : FpExceptions) : (s.recordFp e).hi = s.hi := rfl
@[simp] theorem State.recordFp_lo (s : State) (e : FpExceptions) : (s.recordFp e).lo = s.lo := rfl
@[simp] theorem State.recordFp_pc (s : State) (e : FpExceptions) : (s.recordFp e).pc = s.pc := rfl
@[simp] theorem State.recordFp_nextPc (s : State) (e : FpExceptions) : (s.recordFp e).nextPc = s.nextPc := rfl
@[simp] theorem State.recordFp_cp0 (s : State) (e : FpExceptions) : (s.recordFp e).cp0 = s.cp0 := rfl
@[simp] theorem State.recordFp_tlb (s : State) (e : FpExceptions) : (s.recordFp e).tlb = s.tlb := rfl
@[simp] theorem State.recordFp_fgr (s : State) (e : FpExceptions) : (s.recordFp e).fgr = s.fgr := rfl
@[simp] theorem State.recordFp_fcr31 (s : State) (e : FpExceptions) : (s.recordFp e).fcr31 = s.fcr31.record e := rfl
@[simp] theorem State.recordFp_fpaHeld (s : State) (e : FpExceptions) : (s.recordFp e).fpaHeld = s.fpaLine := rfl
@[simp] theorem State.recordFp_icache (s : State) (e : FpExceptions) : (s.recordFp e).icache = s.icache := rfl
@[simp] theorem State.recordFp_dcache (s : State) (e : FpExceptions) : (s.recordFp e).dcache = s.dcache := rfl
@[simp] theorem State.recordFp_mem (s : State) (e : FpExceptions) : (s.recordFp e).mem = s.mem := rfl
@[simp] theorem State.recordFp_writeBuffer (s : State) (e : FpExceptions) : (s.recordFp e).writeBuffer = s.writeBuffer := rfl
@[simp] theorem State.recordFp_readBuffer (s : State) (e : FpExceptions) : (s.recordFp e).readBuffer = s.readBuffer := rfl
@[simp] theorem State.recordFp_seq (s : State) (e : FpExceptions) : (s.recordFp e).seq = s.seq := rfl
@[simp] theorem State.recordFp_env (s : State) (e : FpExceptions) : (s.recordFp e).env = s.env := rfl
@[simp] theorem State.recordFp_inputs (s : State) (e : FpExceptions) : (s.recordFp e).inputs = s.inputs := rfl

@[simp] theorem State.loadFcr31_chip (s : State) (v : Fcr31) : (s.loadFcr31 v).chip = s.chip := rfl
@[simp] theorem State.loadFcr31_mode (s : State) (v : Fcr31) : (s.loadFcr31 v).mode = s.mode := rfl
@[simp] theorem State.loadFcr31_gpr (s : State) (v : Fcr31) : (s.loadFcr31 v).gpr = s.gpr := rfl
@[simp] theorem State.loadFcr31_hi (s : State) (v : Fcr31) : (s.loadFcr31 v).hi = s.hi := rfl
@[simp] theorem State.loadFcr31_lo (s : State) (v : Fcr31) : (s.loadFcr31 v).lo = s.lo := rfl
@[simp] theorem State.loadFcr31_pc (s : State) (v : Fcr31) : (s.loadFcr31 v).pc = s.pc := rfl
@[simp] theorem State.loadFcr31_nextPc (s : State) (v : Fcr31) : (s.loadFcr31 v).nextPc = s.nextPc := rfl
@[simp] theorem State.loadFcr31_cp0 (s : State) (v : Fcr31) : (s.loadFcr31 v).cp0 = s.cp0 := rfl
@[simp] theorem State.loadFcr31_tlb (s : State) (v : Fcr31) : (s.loadFcr31 v).tlb = s.tlb := rfl
@[simp] theorem State.loadFcr31_fgr (s : State) (v : Fcr31) : (s.loadFcr31 v).fgr = s.fgr := rfl
@[simp] theorem State.loadFcr31_fcr31 (s : State) (v : Fcr31) : (s.loadFcr31 v).fcr31 = v := rfl
@[simp] theorem State.loadFcr31_fpaHeld (s : State) (v : Fcr31) : (s.loadFcr31 v).fpaHeld = false := rfl
@[simp] theorem State.loadFcr31_icache (s : State) (v : Fcr31) : (s.loadFcr31 v).icache = s.icache := rfl
@[simp] theorem State.loadFcr31_dcache (s : State) (v : Fcr31) : (s.loadFcr31 v).dcache = s.dcache := rfl
@[simp] theorem State.loadFcr31_mem (s : State) (v : Fcr31) : (s.loadFcr31 v).mem = s.mem := rfl
@[simp] theorem State.loadFcr31_writeBuffer (s : State) (v : Fcr31) : (s.loadFcr31 v).writeBuffer = s.writeBuffer := rfl
@[simp] theorem State.loadFcr31_readBuffer (s : State) (v : Fcr31) : (s.loadFcr31 v).readBuffer = s.readBuffer := rfl
@[simp] theorem State.loadFcr31_seq (s : State) (v : Fcr31) : (s.loadFcr31 v).seq = s.seq := rfl
@[simp] theorem State.loadFcr31_env (s : State) (v : Fcr31) : (s.loadFcr31 v).env = s.env := rfl
@[simp] theorem State.loadFcr31_inputs (s : State) (v : Fcr31) : (s.loadFcr31 v).inputs = s.inputs := rfl

@[simp] theorem State.withHi_chip (s : State) (v : Word) : (s.withHi v).chip = s.chip := rfl
@[simp] theorem State.withHi_mode (s : State) (v : Word) : (s.withHi v).mode = s.mode := rfl
@[simp] theorem State.withHi_gpr (s : State) (v : Word) : (s.withHi v).gpr = s.gpr := rfl
@[simp] theorem State.withHi_hi (s : State) (v : Word) : (s.withHi v).hi = v := rfl
@[simp] theorem State.withHi_lo (s : State) (v : Word) : (s.withHi v).lo = s.lo := rfl
@[simp] theorem State.withHi_pc (s : State) (v : Word) : (s.withHi v).pc = s.pc := rfl
@[simp] theorem State.withHi_nextPc (s : State) (v : Word) : (s.withHi v).nextPc = s.nextPc := rfl
@[simp] theorem State.withHi_cp0 (s : State) (v : Word) : (s.withHi v).cp0 = s.cp0 := rfl
@[simp] theorem State.withHi_tlb (s : State) (v : Word) : (s.withHi v).tlb = s.tlb := rfl
@[simp] theorem State.withHi_fgr (s : State) (v : Word) : (s.withHi v).fgr = s.fgr := rfl
@[simp] theorem State.withHi_fcr31 (s : State) (v : Word) : (s.withHi v).fcr31 = s.fcr31 := rfl
@[simp] theorem State.withHi_fpaHeld (s : State) (v : Word) : (s.withHi v).fpaHeld = s.fpaHeld := rfl
@[simp] theorem State.withHi_icache (s : State) (v : Word) : (s.withHi v).icache = s.icache := rfl
@[simp] theorem State.withHi_dcache (s : State) (v : Word) : (s.withHi v).dcache = s.dcache := rfl
@[simp] theorem State.withHi_mem (s : State) (v : Word) : (s.withHi v).mem = s.mem := rfl
@[simp] theorem State.withHi_writeBuffer (s : State) (v : Word) : (s.withHi v).writeBuffer = s.writeBuffer := rfl
@[simp] theorem State.withHi_readBuffer (s : State) (v : Word) : (s.withHi v).readBuffer = s.readBuffer := rfl
@[simp] theorem State.withHi_seq (s : State) (v : Word) : (s.withHi v).seq = s.seq := rfl
@[simp] theorem State.withHi_env (s : State) (v : Word) : (s.withHi v).env = s.env := rfl
@[simp] theorem State.withHi_inputs (s : State) (v : Word) : (s.withHi v).inputs = s.inputs := rfl

@[simp] theorem State.withLo_chip (s : State) (v : Word) : (s.withLo v).chip = s.chip := rfl
@[simp] theorem State.withLo_mode (s : State) (v : Word) : (s.withLo v).mode = s.mode := rfl
@[simp] theorem State.withLo_gpr (s : State) (v : Word) : (s.withLo v).gpr = s.gpr := rfl
@[simp] theorem State.withLo_hi (s : State) (v : Word) : (s.withLo v).hi = s.hi := rfl
@[simp] theorem State.withLo_lo (s : State) (v : Word) : (s.withLo v).lo = v := rfl
@[simp] theorem State.withLo_pc (s : State) (v : Word) : (s.withLo v).pc = s.pc := rfl
@[simp] theorem State.withLo_nextPc (s : State) (v : Word) : (s.withLo v).nextPc = s.nextPc := rfl
@[simp] theorem State.withLo_cp0 (s : State) (v : Word) : (s.withLo v).cp0 = s.cp0 := rfl
@[simp] theorem State.withLo_tlb (s : State) (v : Word) : (s.withLo v).tlb = s.tlb := rfl
@[simp] theorem State.withLo_fgr (s : State) (v : Word) : (s.withLo v).fgr = s.fgr := rfl
@[simp] theorem State.withLo_fcr31 (s : State) (v : Word) : (s.withLo v).fcr31 = s.fcr31 := rfl
@[simp] theorem State.withLo_fpaHeld (s : State) (v : Word) : (s.withLo v).fpaHeld = s.fpaHeld := rfl
@[simp] theorem State.withLo_icache (s : State) (v : Word) : (s.withLo v).icache = s.icache := rfl
@[simp] theorem State.withLo_dcache (s : State) (v : Word) : (s.withLo v).dcache = s.dcache := rfl
@[simp] theorem State.withLo_mem (s : State) (v : Word) : (s.withLo v).mem = s.mem := rfl
@[simp] theorem State.withLo_writeBuffer (s : State) (v : Word) : (s.withLo v).writeBuffer = s.writeBuffer := rfl
@[simp] theorem State.withLo_readBuffer (s : State) (v : Word) : (s.withLo v).readBuffer = s.readBuffer := rfl
@[simp] theorem State.withLo_seq (s : State) (v : Word) : (s.withLo v).seq = s.seq := rfl
@[simp] theorem State.withLo_env (s : State) (v : Word) : (s.withLo v).env = s.env := rfl
@[simp] theorem State.withLo_inputs (s : State) (v : Word) : (s.withLo v).inputs = s.inputs := rfl

@[simp] theorem State.withSeq_chip (s : State) (v : Sequencing) : (s.withSeq v).chip = s.chip := rfl
@[simp] theorem State.withSeq_mode (s : State) (v : Sequencing) : (s.withSeq v).mode = s.mode := rfl
@[simp] theorem State.withSeq_gpr (s : State) (v : Sequencing) : (s.withSeq v).gpr = s.gpr := rfl
@[simp] theorem State.withSeq_hi (s : State) (v : Sequencing) : (s.withSeq v).hi = s.hi := rfl
@[simp] theorem State.withSeq_lo (s : State) (v : Sequencing) : (s.withSeq v).lo = s.lo := rfl
@[simp] theorem State.withSeq_pc (s : State) (v : Sequencing) : (s.withSeq v).pc = s.pc := rfl
@[simp] theorem State.withSeq_nextPc (s : State) (v : Sequencing) : (s.withSeq v).nextPc = s.nextPc := rfl
@[simp] theorem State.withSeq_cp0 (s : State) (v : Sequencing) : (s.withSeq v).cp0 = s.cp0 := rfl
@[simp] theorem State.withSeq_tlb (s : State) (v : Sequencing) : (s.withSeq v).tlb = s.tlb := rfl
@[simp] theorem State.withSeq_fgr (s : State) (v : Sequencing) : (s.withSeq v).fgr = s.fgr := rfl
@[simp] theorem State.withSeq_fcr31 (s : State) (v : Sequencing) : (s.withSeq v).fcr31 = s.fcr31 := rfl
@[simp] theorem State.withSeq_fpaHeld (s : State) (v : Sequencing) : (s.withSeq v).fpaHeld = s.fpaHeld := rfl
@[simp] theorem State.withSeq_icache (s : State) (v : Sequencing) : (s.withSeq v).icache = s.icache := rfl
@[simp] theorem State.withSeq_dcache (s : State) (v : Sequencing) : (s.withSeq v).dcache = s.dcache := rfl
@[simp] theorem State.withSeq_mem (s : State) (v : Sequencing) : (s.withSeq v).mem = s.mem := rfl
@[simp] theorem State.withSeq_writeBuffer (s : State) (v : Sequencing) : (s.withSeq v).writeBuffer = s.writeBuffer := rfl
@[simp] theorem State.withSeq_readBuffer (s : State) (v : Sequencing) : (s.withSeq v).readBuffer = s.readBuffer := rfl
@[simp] theorem State.withSeq_seq (s : State) (v : Sequencing) : (s.withSeq v).seq = v := rfl
@[simp] theorem State.withSeq_env (s : State) (v : Sequencing) : (s.withSeq v).env = s.env := rfl
@[simp] theorem State.withSeq_inputs (s : State) (v : Sequencing) : (s.withSeq v).inputs = s.inputs := rfl

@[simp] theorem State.writeFgr_chip (s : State) (r : Reg) (v : Word) : (s.writeFgr r v).chip = s.chip := rfl
@[simp] theorem State.writeFgr_mode (s : State) (r : Reg) (v : Word) : (s.writeFgr r v).mode = s.mode := rfl
@[simp] theorem State.writeFgr_gpr (s : State) (r : Reg) (v : Word) : (s.writeFgr r v).gpr = s.gpr := rfl
@[simp] theorem State.writeFgr_hi (s : State) (r : Reg) (v : Word) : (s.writeFgr r v).hi = s.hi := rfl
@[simp] theorem State.writeFgr_lo (s : State) (r : Reg) (v : Word) : (s.writeFgr r v).lo = s.lo := rfl
@[simp] theorem State.writeFgr_pc (s : State) (r : Reg) (v : Word) : (s.writeFgr r v).pc = s.pc := rfl
@[simp] theorem State.writeFgr_nextPc (s : State) (r : Reg) (v : Word) : (s.writeFgr r v).nextPc = s.nextPc := rfl
@[simp] theorem State.writeFgr_cp0 (s : State) (r : Reg) (v : Word) : (s.writeFgr r v).cp0 = s.cp0 := rfl
@[simp] theorem State.writeFgr_tlb (s : State) (r : Reg) (v : Word) : (s.writeFgr r v).tlb = s.tlb := rfl
@[simp] theorem State.writeFgr_fcr31 (s : State) (r : Reg) (v : Word) : (s.writeFgr r v).fcr31 = s.fcr31 := rfl
@[simp] theorem State.writeFgr_fpaHeld (s : State) (r : Reg) (v : Word) : (s.writeFgr r v).fpaHeld = s.fpaHeld := rfl
@[simp] theorem State.writeFgr_icache (s : State) (r : Reg) (v : Word) : (s.writeFgr r v).icache = s.icache := rfl
@[simp] theorem State.writeFgr_dcache (s : State) (r : Reg) (v : Word) : (s.writeFgr r v).dcache = s.dcache := rfl
@[simp] theorem State.writeFgr_mem (s : State) (r : Reg) (v : Word) : (s.writeFgr r v).mem = s.mem := rfl
@[simp] theorem State.writeFgr_writeBuffer (s : State) (r : Reg) (v : Word) : (s.writeFgr r v).writeBuffer = s.writeBuffer := rfl
@[simp] theorem State.writeFgr_readBuffer (s : State) (r : Reg) (v : Word) : (s.writeFgr r v).readBuffer = s.readBuffer := rfl
@[simp] theorem State.writeFgr_seq (s : State) (r : Reg) (v : Word) : (s.writeFgr r v).seq = s.seq := rfl
@[simp] theorem State.writeFgr_env (s : State) (r : Reg) (v : Word) : (s.writeFgr r v).env = s.env := rfl
@[simp] theorem State.writeFgr_inputs (s : State) (r : Reg) (v : Word) : (s.writeFgr r v).inputs = s.inputs := rfl

@[simp] theorem State.writeTlb_chip (s : State) (i : BitVec 6) (v : TlbEntry) : (s.writeTlb i v).chip = s.chip := rfl
@[simp] theorem State.writeTlb_mode (s : State) (i : BitVec 6) (v : TlbEntry) : (s.writeTlb i v).mode = s.mode := rfl
@[simp] theorem State.writeTlb_gpr (s : State) (i : BitVec 6) (v : TlbEntry) : (s.writeTlb i v).gpr = s.gpr := rfl
@[simp] theorem State.writeTlb_hi (s : State) (i : BitVec 6) (v : TlbEntry) : (s.writeTlb i v).hi = s.hi := rfl
@[simp] theorem State.writeTlb_lo (s : State) (i : BitVec 6) (v : TlbEntry) : (s.writeTlb i v).lo = s.lo := rfl
@[simp] theorem State.writeTlb_pc (s : State) (i : BitVec 6) (v : TlbEntry) : (s.writeTlb i v).pc = s.pc := rfl
@[simp] theorem State.writeTlb_nextPc (s : State) (i : BitVec 6) (v : TlbEntry) : (s.writeTlb i v).nextPc = s.nextPc := rfl
@[simp] theorem State.writeTlb_cp0 (s : State) (i : BitVec 6) (v : TlbEntry) : (s.writeTlb i v).cp0 = s.cp0 := rfl
@[simp] theorem State.writeTlb_fgr (s : State) (i : BitVec 6) (v : TlbEntry) : (s.writeTlb i v).fgr = s.fgr := rfl
@[simp] theorem State.writeTlb_fcr31 (s : State) (i : BitVec 6) (v : TlbEntry) : (s.writeTlb i v).fcr31 = s.fcr31 := rfl
@[simp] theorem State.writeTlb_fpaHeld (s : State) (i : BitVec 6) (v : TlbEntry) : (s.writeTlb i v).fpaHeld = s.fpaHeld := rfl
@[simp] theorem State.writeTlb_icache (s : State) (i : BitVec 6) (v : TlbEntry) : (s.writeTlb i v).icache = s.icache := rfl
@[simp] theorem State.writeTlb_dcache (s : State) (i : BitVec 6) (v : TlbEntry) : (s.writeTlb i v).dcache = s.dcache := rfl
@[simp] theorem State.writeTlb_mem (s : State) (i : BitVec 6) (v : TlbEntry) : (s.writeTlb i v).mem = s.mem := rfl
@[simp] theorem State.writeTlb_writeBuffer (s : State) (i : BitVec 6) (v : TlbEntry) : (s.writeTlb i v).writeBuffer = s.writeBuffer := rfl
@[simp] theorem State.writeTlb_readBuffer (s : State) (i : BitVec 6) (v : TlbEntry) : (s.writeTlb i v).readBuffer = s.readBuffer := rfl
@[simp] theorem State.writeTlb_seq (s : State) (i : BitVec 6) (v : TlbEntry) : (s.writeTlb i v).seq = s.seq := rfl
@[simp] theorem State.writeTlb_env (s : State) (i : BitVec 6) (v : TlbEntry) : (s.writeTlb i v).env = s.env := rfl
@[simp] theorem State.writeTlb_inputs (s : State) (i : BitVec 6) (v : TlbEntry) : (s.writeTlb i v).inputs = s.inputs := rfl

@[simp] theorem State.drain_chip (s : State) : (s.drain).chip = s.chip := rfl
@[simp] theorem State.drain_mode (s : State) : (s.drain).mode = s.mode := rfl
@[simp] theorem State.drain_gpr (s : State) : (s.drain).gpr = s.gpr := rfl
@[simp] theorem State.drain_hi (s : State) : (s.drain).hi = s.hi := rfl
@[simp] theorem State.drain_lo (s : State) : (s.drain).lo = s.lo := rfl
@[simp] theorem State.drain_pc (s : State) : (s.drain).pc = s.pc := rfl
@[simp] theorem State.drain_nextPc (s : State) : (s.drain).nextPc = s.nextPc := rfl
@[simp] theorem State.drain_cp0 (s : State) : (s.drain).cp0 = s.cp0 := rfl
@[simp] theorem State.drain_tlb (s : State) : (s.drain).tlb = s.tlb := rfl
@[simp] theorem State.drain_fgr (s : State) : (s.drain).fgr = s.fgr := rfl
@[simp] theorem State.drain_fcr31 (s : State) : (s.drain).fcr31 = s.fcr31 := rfl
@[simp] theorem State.drain_fpaHeld (s : State) : (s.drain).fpaHeld = s.fpaHeld := rfl
@[simp] theorem State.drain_icache (s : State) : (s.drain).icache = s.icache := rfl
@[simp] theorem State.drain_dcache (s : State) : (s.drain).dcache = s.dcache := rfl
@[simp] theorem State.drain_mem (s : State) : (s.drain).mem = s.settledMemory := rfl
@[simp] theorem State.drain_writeBuffer (s : State) : (s.drain).writeBuffer = [] := rfl
@[simp] theorem State.drain_readBuffer (s : State) : (s.drain).readBuffer = s.readBuffer := rfl
@[simp] theorem State.drain_seq (s : State) : (s.drain).seq = s.seq := rfl
@[simp] theorem State.drain_env (s : State) : (s.drain).env = s.env := rfl
@[simp] theorem State.drain_inputs (s : State) : (s.drain).inputs = s.inputs := rfl

@[simp] theorem State.returnFromException_chip (s : State) : (s.returnFromException).chip = s.chip := rfl
@[simp] theorem State.returnFromException_mode (s : State) : (s.returnFromException).mode = s.mode := rfl
@[simp] theorem State.returnFromException_gpr (s : State) : (s.returnFromException).gpr = s.gpr := rfl
@[simp] theorem State.returnFromException_hi (s : State) : (s.returnFromException).hi = s.hi := rfl
@[simp] theorem State.returnFromException_lo (s : State) : (s.returnFromException).lo = s.lo := rfl
@[simp] theorem State.returnFromException_pc (s : State) : (s.returnFromException).pc = s.pc := rfl
@[simp] theorem State.returnFromException_nextPc (s : State) : (s.returnFromException).nextPc = s.nextPc := rfl
@[simp] theorem State.returnFromException_cp0 (s : State) : (s.returnFromException).cp0 = { s.cp0 with status := s.cp0.status.pop } := rfl
@[simp] theorem State.returnFromException_tlb (s : State) : (s.returnFromException).tlb = s.tlb := rfl
@[simp] theorem State.returnFromException_fgr (s : State) : (s.returnFromException).fgr = s.fgr := rfl
@[simp] theorem State.returnFromException_fcr31 (s : State) : (s.returnFromException).fcr31 = s.fcr31 := rfl
@[simp] theorem State.returnFromException_fpaHeld (s : State) : (s.returnFromException).fpaHeld = s.fpaHeld := rfl
@[simp] theorem State.returnFromException_icache (s : State) : (s.returnFromException).icache = s.icache := rfl
@[simp] theorem State.returnFromException_dcache (s : State) : (s.returnFromException).dcache = s.dcache := rfl
@[simp] theorem State.returnFromException_mem (s : State) : (s.returnFromException).mem = s.mem := rfl
@[simp] theorem State.returnFromException_writeBuffer (s : State) : (s.returnFromException).writeBuffer = s.writeBuffer := rfl
@[simp] theorem State.returnFromException_readBuffer (s : State) : (s.returnFromException).readBuffer = s.readBuffer := rfl
@[simp] theorem State.returnFromException_seq (s : State) : (s.returnFromException).seq = s.seq := rfl
@[simp] theorem State.returnFromException_env (s : State) : (s.returnFromException).env = s.env := rfl
@[simp] theorem State.returnFromException_inputs (s : State) : (s.returnFromException).inputs = s.inputs := rfl

@[simp] theorem State.noteFetch_chip (s : State) (c : Bool) : (s.noteFetch c).chip = s.chip := rfl
@[simp] theorem State.noteFetch_mode (s : State) (c : Bool) : (s.noteFetch c).mode = s.mode := rfl
@[simp] theorem State.noteFetch_gpr (s : State) (c : Bool) : (s.noteFetch c).gpr = s.gpr := rfl
@[simp] theorem State.noteFetch_hi (s : State) (c : Bool) : (s.noteFetch c).hi = s.hi := rfl
@[simp] theorem State.noteFetch_lo (s : State) (c : Bool) : (s.noteFetch c).lo = s.lo := rfl
@[simp] theorem State.noteFetch_pc (s : State) (c : Bool) : (s.noteFetch c).pc = s.pc := rfl
@[simp] theorem State.noteFetch_nextPc (s : State) (c : Bool) : (s.noteFetch c).nextPc = s.nextPc := rfl
@[simp] theorem State.noteFetch_cp0 (s : State) (c : Bool) : (s.noteFetch c).cp0 = s.cp0 := rfl
@[simp] theorem State.noteFetch_tlb (s : State) (c : Bool) : (s.noteFetch c).tlb = s.tlb := rfl
@[simp] theorem State.noteFetch_fgr (s : State) (c : Bool) : (s.noteFetch c).fgr = s.fgr := rfl
@[simp] theorem State.noteFetch_fcr31 (s : State) (c : Bool) : (s.noteFetch c).fcr31 = s.fcr31 := rfl
@[simp] theorem State.noteFetch_fpaHeld (s : State) (c : Bool) : (s.noteFetch c).fpaHeld = s.fpaHeld := rfl
@[simp] theorem State.noteFetch_icache (s : State) (c : Bool) : (s.noteFetch c).icache = s.icache := rfl
@[simp] theorem State.noteFetch_dcache (s : State) (c : Bool) : (s.noteFetch c).dcache = s.dcache := rfl
@[simp] theorem State.noteFetch_mem (s : State) (c : Bool) : (s.noteFetch c).mem = s.mem := rfl
@[simp] theorem State.noteFetch_writeBuffer (s : State) (c : Bool) : (s.noteFetch c).writeBuffer = s.writeBuffer := rfl
@[simp] theorem State.noteFetch_readBuffer (s : State) (c : Bool) : (s.noteFetch c).readBuffer = s.readBuffer := rfl
@[simp] theorem State.noteFetch_env (s : State) (c : Bool) : (s.noteFetch c).env = s.env := rfl
@[simp] theorem State.noteFetch_inputs (s : State) (c : Bool) : (s.noteFetch c).inputs = s.inputs := rfl

@[simp] theorem State.turnOver_chip (s : State) : (s.turnOver).chip = s.chip := rfl
@[simp] theorem State.turnOver_mode (s : State) : (s.turnOver).mode = s.mode := rfl
@[simp] theorem State.turnOver_gpr (s : State) : (s.turnOver).gpr = s.gpr := rfl
@[simp] theorem State.turnOver_hi (s : State) : (s.turnOver).hi = s.hi := rfl
@[simp] theorem State.turnOver_lo (s : State) : (s.turnOver).lo = s.lo := rfl
@[simp] theorem State.turnOver_pc (s : State) : (s.turnOver).pc = s.pc := rfl
@[simp] theorem State.turnOver_nextPc (s : State) : (s.turnOver).nextPc = s.nextPc := rfl
@[simp] theorem State.turnOver_tlb (s : State) : (s.turnOver).tlb = s.tlb := rfl
@[simp] theorem State.turnOver_fgr (s : State) : (s.turnOver).fgr = s.fgr := rfl
@[simp] theorem State.turnOver_fcr31 (s : State) : (s.turnOver).fcr31 = s.fcr31 := rfl
@[simp] theorem State.turnOver_fpaHeld (s : State) : (s.turnOver).fpaHeld = s.fpaHeld := rfl
@[simp] theorem State.turnOver_icache (s : State) : (s.turnOver).icache = s.icache := rfl
@[simp] theorem State.turnOver_dcache (s : State) : (s.turnOver).dcache = s.dcache := rfl
@[simp] theorem State.turnOver_mem (s : State) : (s.turnOver).mem = s.mem := rfl
@[simp] theorem State.turnOver_writeBuffer (s : State) : (s.turnOver).writeBuffer = s.writeBuffer := rfl
@[simp] theorem State.turnOver_readBuffer (s : State) : (s.turnOver).readBuffer = s.readBuffer := rfl
@[simp] theorem State.turnOver_env (s : State) : (s.turnOver).env = s.env := rfl
@[simp] theorem State.turnOver_inputs (s : State) : (s.turnOver).inputs = s.inputs := rfl

@[simp] theorem State.writeReg_chip (s : State) (r : Reg) (v : Word) : (s.writeReg r v).chip = s.chip := by unfold State.writeReg; split <;> rfl
@[simp] theorem State.writeReg_mode (s : State) (r : Reg) (v : Word) : (s.writeReg r v).mode = s.mode := by unfold State.writeReg; split <;> rfl
@[simp] theorem State.writeReg_hi (s : State) (r : Reg) (v : Word) : (s.writeReg r v).hi = s.hi := by unfold State.writeReg; split <;> rfl
@[simp] theorem State.writeReg_lo (s : State) (r : Reg) (v : Word) : (s.writeReg r v).lo = s.lo := by unfold State.writeReg; split <;> rfl
@[simp] theorem State.writeReg_pc (s : State) (r : Reg) (v : Word) : (s.writeReg r v).pc = s.pc := by unfold State.writeReg; split <;> rfl
@[simp] theorem State.writeReg_nextPc (s : State) (r : Reg) (v : Word) : (s.writeReg r v).nextPc = s.nextPc := by unfold State.writeReg; split <;> rfl
@[simp] theorem State.writeReg_cp0 (s : State) (r : Reg) (v : Word) : (s.writeReg r v).cp0 = s.cp0 := by unfold State.writeReg; split <;> rfl
@[simp] theorem State.writeReg_tlb (s : State) (r : Reg) (v : Word) : (s.writeReg r v).tlb = s.tlb := by unfold State.writeReg; split <;> rfl
@[simp] theorem State.writeReg_fgr (s : State) (r : Reg) (v : Word) : (s.writeReg r v).fgr = s.fgr := by unfold State.writeReg; split <;> rfl
@[simp] theorem State.writeReg_fcr31 (s : State) (r : Reg) (v : Word) : (s.writeReg r v).fcr31 = s.fcr31 := by unfold State.writeReg; split <;> rfl
@[simp] theorem State.writeReg_fpaHeld (s : State) (r : Reg) (v : Word) : (s.writeReg r v).fpaHeld = s.fpaHeld := by unfold State.writeReg; split <;> rfl
@[simp] theorem State.writeReg_icache (s : State) (r : Reg) (v : Word) : (s.writeReg r v).icache = s.icache := by unfold State.writeReg; split <;> rfl
@[simp] theorem State.writeReg_dcache (s : State) (r : Reg) (v : Word) : (s.writeReg r v).dcache = s.dcache := by unfold State.writeReg; split <;> rfl
@[simp] theorem State.writeReg_mem (s : State) (r : Reg) (v : Word) : (s.writeReg r v).mem = s.mem := by unfold State.writeReg; split <;> rfl
@[simp] theorem State.writeReg_writeBuffer (s : State) (r : Reg) (v : Word) : (s.writeReg r v).writeBuffer = s.writeBuffer := by unfold State.writeReg; split <;> rfl
@[simp] theorem State.writeReg_readBuffer (s : State) (r : Reg) (v : Word) : (s.writeReg r v).readBuffer = s.readBuffer := by unfold State.writeReg; split <;> rfl
@[simp] theorem State.writeReg_seq (s : State) (r : Reg) (v : Word) : (s.writeReg r v).seq = s.seq := by unfold State.writeReg; split <;> rfl
@[simp] theorem State.writeReg_env (s : State) (r : Reg) (v : Word) : (s.writeReg r v).env = s.env := by unfold State.writeReg; split <;> rfl
@[simp] theorem State.writeReg_inputs (s : State) (r : Reg) (v : Word) : (s.writeReg r v).inputs = s.inputs := by unfold State.writeReg; split <;> rfl

@[simp] theorem State.deferLoad_chip (s : State) (r : Reg) (v : Word) : (s.deferLoad r v).chip = s.chip := by unfold State.deferLoad; split <;> rfl
@[simp] theorem State.deferLoad_mode (s : State) (r : Reg) (v : Word) : (s.deferLoad r v).mode = s.mode := by unfold State.deferLoad; split <;> rfl
@[simp] theorem State.deferLoad_gpr (s : State) (r : Reg) (v : Word) : (s.deferLoad r v).gpr = s.gpr := by unfold State.deferLoad; split <;> rfl
@[simp] theorem State.deferLoad_hi (s : State) (r : Reg) (v : Word) : (s.deferLoad r v).hi = s.hi := by unfold State.deferLoad; split <;> rfl
@[simp] theorem State.deferLoad_lo (s : State) (r : Reg) (v : Word) : (s.deferLoad r v).lo = s.lo := by unfold State.deferLoad; split <;> rfl
@[simp] theorem State.deferLoad_pc (s : State) (r : Reg) (v : Word) : (s.deferLoad r v).pc = s.pc := by unfold State.deferLoad; split <;> rfl
@[simp] theorem State.deferLoad_nextPc (s : State) (r : Reg) (v : Word) : (s.deferLoad r v).nextPc = s.nextPc := by unfold State.deferLoad; split <;> rfl
@[simp] theorem State.deferLoad_cp0 (s : State) (r : Reg) (v : Word) : (s.deferLoad r v).cp0 = s.cp0 := by unfold State.deferLoad; split <;> rfl
@[simp] theorem State.deferLoad_tlb (s : State) (r : Reg) (v : Word) : (s.deferLoad r v).tlb = s.tlb := by unfold State.deferLoad; split <;> rfl
@[simp] theorem State.deferLoad_fgr (s : State) (r : Reg) (v : Word) : (s.deferLoad r v).fgr = s.fgr := by unfold State.deferLoad; split <;> rfl
@[simp] theorem State.deferLoad_fcr31 (s : State) (r : Reg) (v : Word) : (s.deferLoad r v).fcr31 = s.fcr31 := by unfold State.deferLoad; split <;> rfl
@[simp] theorem State.deferLoad_fpaHeld (s : State) (r : Reg) (v : Word) : (s.deferLoad r v).fpaHeld = s.fpaHeld := by unfold State.deferLoad; split <;> rfl
@[simp] theorem State.deferLoad_icache (s : State) (r : Reg) (v : Word) : (s.deferLoad r v).icache = s.icache := by unfold State.deferLoad; split <;> rfl
@[simp] theorem State.deferLoad_dcache (s : State) (r : Reg) (v : Word) : (s.deferLoad r v).dcache = s.dcache := by unfold State.deferLoad; split <;> rfl
@[simp] theorem State.deferLoad_mem (s : State) (r : Reg) (v : Word) : (s.deferLoad r v).mem = s.mem := by unfold State.deferLoad; split <;> rfl
@[simp] theorem State.deferLoad_writeBuffer (s : State) (r : Reg) (v : Word) : (s.deferLoad r v).writeBuffer = s.writeBuffer := by unfold State.deferLoad; split <;> rfl
@[simp] theorem State.deferLoad_readBuffer (s : State) (r : Reg) (v : Word) : (s.deferLoad r v).readBuffer = s.readBuffer := by unfold State.deferLoad; split <;> rfl
@[simp] theorem State.deferLoad_env (s : State) (r : Reg) (v : Word) : (s.deferLoad r v).env = s.env := by unfold State.deferLoad; split <;> rfl
@[simp] theorem State.deferLoad_inputs (s : State) (r : Reg) (v : Word) : (s.deferLoad r v).inputs = s.inputs := by unfold State.deferLoad; split <;> rfl

@[simp] theorem State.deferFpLoad_chip (s : State) (r : Reg) (v : Word) : (s.deferFpLoad r v).chip = s.chip := rfl
@[simp] theorem State.deferFpLoad_mode (s : State) (r : Reg) (v : Word) : (s.deferFpLoad r v).mode = s.mode := rfl
@[simp] theorem State.deferFpLoad_gpr (s : State) (r : Reg) (v : Word) : (s.deferFpLoad r v).gpr = s.gpr := rfl
@[simp] theorem State.deferFpLoad_hi (s : State) (r : Reg) (v : Word) : (s.deferFpLoad r v).hi = s.hi := rfl
@[simp] theorem State.deferFpLoad_lo (s : State) (r : Reg) (v : Word) : (s.deferFpLoad r v).lo = s.lo := rfl
@[simp] theorem State.deferFpLoad_pc (s : State) (r : Reg) (v : Word) : (s.deferFpLoad r v).pc = s.pc := rfl
@[simp] theorem State.deferFpLoad_nextPc (s : State) (r : Reg) (v : Word) : (s.deferFpLoad r v).nextPc = s.nextPc := rfl
@[simp] theorem State.deferFpLoad_cp0 (s : State) (r : Reg) (v : Word) : (s.deferFpLoad r v).cp0 = s.cp0 := rfl
@[simp] theorem State.deferFpLoad_tlb (s : State) (r : Reg) (v : Word) : (s.deferFpLoad r v).tlb = s.tlb := rfl
@[simp] theorem State.deferFpLoad_fgr (s : State) (r : Reg) (v : Word) : (s.deferFpLoad r v).fgr = s.fgr := rfl
@[simp] theorem State.deferFpLoad_fcr31 (s : State) (r : Reg) (v : Word) : (s.deferFpLoad r v).fcr31 = s.fcr31 := rfl
@[simp] theorem State.deferFpLoad_fpaHeld (s : State) (r : Reg) (v : Word) : (s.deferFpLoad r v).fpaHeld = s.fpaHeld := rfl
@[simp] theorem State.deferFpLoad_icache (s : State) (r : Reg) (v : Word) : (s.deferFpLoad r v).icache = s.icache := rfl
@[simp] theorem State.deferFpLoad_dcache (s : State) (r : Reg) (v : Word) : (s.deferFpLoad r v).dcache = s.dcache := rfl
@[simp] theorem State.deferFpLoad_mem (s : State) (r : Reg) (v : Word) : (s.deferFpLoad r v).mem = s.mem := rfl
@[simp] theorem State.deferFpLoad_writeBuffer (s : State) (r : Reg) (v : Word) : (s.deferFpLoad r v).writeBuffer = s.writeBuffer := rfl
@[simp] theorem State.deferFpLoad_readBuffer (s : State) (r : Reg) (v : Word) : (s.deferFpLoad r v).readBuffer = s.readBuffer := rfl
@[simp] theorem State.deferFpLoad_seq (s : State) (r : Reg) (v : Word) : (s.deferFpLoad r v).seq = { s.seq with fpLoadPending := some (r, v) } := rfl
@[simp] theorem State.deferFpLoad_env (s : State) (r : Reg) (v : Word) : (s.deferFpLoad r v).env = s.env := rfl
@[simp] theorem State.deferFpLoad_inputs (s : State) (r : Reg) (v : Word) : (s.deferFpLoad r v).inputs = s.inputs := rfl

@[simp] theorem State.openCp0Window_chip (s : State) : (s.openCp0Window).chip = s.chip := rfl
@[simp] theorem State.openCp0Window_mode (s : State) : (s.openCp0Window).mode = s.mode := rfl
@[simp] theorem State.openCp0Window_gpr (s : State) : (s.openCp0Window).gpr = s.gpr := rfl
@[simp] theorem State.openCp0Window_hi (s : State) : (s.openCp0Window).hi = s.hi := rfl
@[simp] theorem State.openCp0Window_lo (s : State) : (s.openCp0Window).lo = s.lo := rfl
@[simp] theorem State.openCp0Window_pc (s : State) : (s.openCp0Window).pc = s.pc := rfl
@[simp] theorem State.openCp0Window_nextPc (s : State) : (s.openCp0Window).nextPc = s.nextPc := rfl
@[simp] theorem State.openCp0Window_cp0 (s : State) : (s.openCp0Window).cp0 = s.cp0 := rfl
@[simp] theorem State.openCp0Window_tlb (s : State) : (s.openCp0Window).tlb = s.tlb := rfl
@[simp] theorem State.openCp0Window_fgr (s : State) : (s.openCp0Window).fgr = s.fgr := rfl
@[simp] theorem State.openCp0Window_fcr31 (s : State) : (s.openCp0Window).fcr31 = s.fcr31 := rfl
@[simp] theorem State.openCp0Window_fpaHeld (s : State) : (s.openCp0Window).fpaHeld = s.fpaHeld := rfl
@[simp] theorem State.openCp0Window_icache (s : State) : (s.openCp0Window).icache = s.icache := rfl
@[simp] theorem State.openCp0Window_dcache (s : State) : (s.openCp0Window).dcache = s.dcache := rfl
@[simp] theorem State.openCp0Window_mem (s : State) : (s.openCp0Window).mem = s.mem := rfl
@[simp] theorem State.openCp0Window_writeBuffer (s : State) : (s.openCp0Window).writeBuffer = s.writeBuffer := rfl
@[simp] theorem State.openCp0Window_readBuffer (s : State) : (s.openCp0Window).readBuffer = s.readBuffer := rfl
@[simp] theorem State.openCp0Window_seq (s : State) : (s.openCp0Window).seq = { s.seq with cp0WriteWindow := true } := rfl
@[simp] theorem State.openCp0Window_env (s : State) : (s.openCp0Window).env = s.env := rfl
@[simp] theorem State.openCp0Window_inputs (s : State) : (s.openCp0Window).inputs = s.inputs := rfl

@[simp] theorem State.openConfigWindow_chip (s : State) (v : ConfigReg) : (s.openConfigWindow v).chip = s.chip := rfl
@[simp] theorem State.openConfigWindow_mode (s : State) (v : ConfigReg) : (s.openConfigWindow v).mode = s.mode := rfl
@[simp] theorem State.openConfigWindow_gpr (s : State) (v : ConfigReg) : (s.openConfigWindow v).gpr = s.gpr := rfl
@[simp] theorem State.openConfigWindow_hi (s : State) (v : ConfigReg) : (s.openConfigWindow v).hi = s.hi := rfl
@[simp] theorem State.openConfigWindow_lo (s : State) (v : ConfigReg) : (s.openConfigWindow v).lo = s.lo := rfl
@[simp] theorem State.openConfigWindow_pc (s : State) (v : ConfigReg) : (s.openConfigWindow v).pc = s.pc := rfl
@[simp] theorem State.openConfigWindow_nextPc (s : State) (v : ConfigReg) : (s.openConfigWindow v).nextPc = s.nextPc := rfl
@[simp] theorem State.openConfigWindow_cp0 (s : State) (v : ConfigReg) : (s.openConfigWindow v).cp0 = s.cp0 := rfl
@[simp] theorem State.openConfigWindow_tlb (s : State) (v : ConfigReg) : (s.openConfigWindow v).tlb = s.tlb := rfl
@[simp] theorem State.openConfigWindow_fgr (s : State) (v : ConfigReg) : (s.openConfigWindow v).fgr = s.fgr := rfl
@[simp] theorem State.openConfigWindow_fcr31 (s : State) (v : ConfigReg) : (s.openConfigWindow v).fcr31 = s.fcr31 := rfl
@[simp] theorem State.openConfigWindow_fpaHeld (s : State) (v : ConfigReg) : (s.openConfigWindow v).fpaHeld = s.fpaHeld := rfl
@[simp] theorem State.openConfigWindow_icache (s : State) (v : ConfigReg) : (s.openConfigWindow v).icache = s.icache := rfl
@[simp] theorem State.openConfigWindow_dcache (s : State) (v : ConfigReg) : (s.openConfigWindow v).dcache = s.dcache := rfl
@[simp] theorem State.openConfigWindow_mem (s : State) (v : ConfigReg) : (s.openConfigWindow v).mem = s.mem := rfl
@[simp] theorem State.openConfigWindow_writeBuffer (s : State) (v : ConfigReg) : (s.openConfigWindow v).writeBuffer = s.writeBuffer := rfl
@[simp] theorem State.openConfigWindow_readBuffer (s : State) (v : ConfigReg) : (s.openConfigWindow v).readBuffer = s.readBuffer := rfl
@[simp] theorem State.openConfigWindow_seq (s : State) (v : ConfigReg) : (s.openConfigWindow v).seq = { s.seq with configOld := v, configWindow := 10 } := rfl
@[simp] theorem State.openConfigWindow_env (s : State) (v : ConfigReg) : (s.openConfigWindow v).env = s.env := rfl
@[simp] theorem State.openConfigWindow_inputs (s : State) (v : ConfigReg) : (s.openConfigWindow v).inputs = s.inputs := rfl

@[simp] theorem State.retireWrite_chip (s : State) : (s.retireWrite).chip = s.chip := by unfold State.retireWrite; split <;> rfl
@[simp] theorem State.retireWrite_mode (s : State) : (s.retireWrite).mode = s.mode := by unfold State.retireWrite; split <;> rfl
@[simp] theorem State.retireWrite_gpr (s : State) : (s.retireWrite).gpr = s.gpr := by unfold State.retireWrite; split <;> rfl
@[simp] theorem State.retireWrite_hi (s : State) : (s.retireWrite).hi = s.hi := by unfold State.retireWrite; split <;> rfl
@[simp] theorem State.retireWrite_lo (s : State) : (s.retireWrite).lo = s.lo := by unfold State.retireWrite; split <;> rfl
@[simp] theorem State.retireWrite_pc (s : State) : (s.retireWrite).pc = s.pc := by unfold State.retireWrite; split <;> rfl
@[simp] theorem State.retireWrite_nextPc (s : State) : (s.retireWrite).nextPc = s.nextPc := by unfold State.retireWrite; split <;> rfl
@[simp] theorem State.retireWrite_cp0 (s : State) : (s.retireWrite).cp0 = s.cp0 := by unfold State.retireWrite; split <;> rfl
@[simp] theorem State.retireWrite_tlb (s : State) : (s.retireWrite).tlb = s.tlb := by unfold State.retireWrite; split <;> rfl
@[simp] theorem State.retireWrite_fgr (s : State) : (s.retireWrite).fgr = s.fgr := by unfold State.retireWrite; split <;> rfl
@[simp] theorem State.retireWrite_fcr31 (s : State) : (s.retireWrite).fcr31 = s.fcr31 := by unfold State.retireWrite; split <;> rfl
@[simp] theorem State.retireWrite_fpaHeld (s : State) : (s.retireWrite).fpaHeld = s.fpaHeld := by unfold State.retireWrite; split <;> rfl
@[simp] theorem State.retireWrite_icache (s : State) : (s.retireWrite).icache = s.icache := by unfold State.retireWrite; split <;> rfl
@[simp] theorem State.retireWrite_dcache (s : State) : (s.retireWrite).dcache = s.dcache := by unfold State.retireWrite; split <;> rfl
@[simp] theorem State.retireWrite_readBuffer (s : State) : (s.retireWrite).readBuffer = s.readBuffer := by unfold State.retireWrite; split <;> rfl
@[simp] theorem State.retireWrite_seq (s : State) : (s.retireWrite).seq = s.seq := by unfold State.retireWrite; split <;> rfl
@[simp] theorem State.retireWrite_env (s : State) : (s.retireWrite).env = s.env := by unfold State.retireWrite; split <;> rfl
@[simp] theorem State.retireWrite_inputs (s : State) : (s.retireWrite).inputs = s.inputs := by unfold State.retireWrite; split <;> rfl

@[simp] theorem State.recordParity_chip (s : State) (l : Lookup) : (s.recordParity l).chip = s.chip := rfl
@[simp] theorem State.recordParity_mode (s : State) (l : Lookup) : (s.recordParity l).mode = s.mode := rfl
@[simp] theorem State.recordParity_gpr (s : State) (l : Lookup) : (s.recordParity l).gpr = s.gpr := rfl
@[simp] theorem State.recordParity_hi (s : State) (l : Lookup) : (s.recordParity l).hi = s.hi := rfl
@[simp] theorem State.recordParity_lo (s : State) (l : Lookup) : (s.recordParity l).lo = s.lo := rfl
@[simp] theorem State.recordParity_pc (s : State) (l : Lookup) : (s.recordParity l).pc = s.pc := rfl
@[simp] theorem State.recordParity_nextPc (s : State) (l : Lookup) : (s.recordParity l).nextPc = s.nextPc := rfl
@[simp] theorem State.recordParity_tlb (s : State) (l : Lookup) : (s.recordParity l).tlb = s.tlb := rfl
@[simp] theorem State.recordParity_fgr (s : State) (l : Lookup) : (s.recordParity l).fgr = s.fgr := rfl
@[simp] theorem State.recordParity_fcr31 (s : State) (l : Lookup) : (s.recordParity l).fcr31 = s.fcr31 := rfl
@[simp] theorem State.recordParity_fpaHeld (s : State) (l : Lookup) : (s.recordParity l).fpaHeld = s.fpaHeld := rfl
@[simp] theorem State.recordParity_icache (s : State) (l : Lookup) : (s.recordParity l).icache = s.icache := rfl
@[simp] theorem State.recordParity_dcache (s : State) (l : Lookup) : (s.recordParity l).dcache = s.dcache := rfl
@[simp] theorem State.recordParity_mem (s : State) (l : Lookup) : (s.recordParity l).mem = s.mem := rfl
@[simp] theorem State.recordParity_writeBuffer (s : State) (l : Lookup) : (s.recordParity l).writeBuffer = s.writeBuffer := rfl
@[simp] theorem State.recordParity_readBuffer (s : State) (l : Lookup) : (s.recordParity l).readBuffer = s.readBuffer := rfl
@[simp] theorem State.recordParity_seq (s : State) (l : Lookup) : (s.recordParity l).seq = s.seq := rfl
@[simp] theorem State.recordParity_env (s : State) (l : Lookup) : (s.recordParity l).env = s.env := rfl
@[simp] theorem State.recordParity_inputs (s : State) (l : Lookup) : (s.recordParity l).inputs = s.inputs := rfl

@[simp] theorem State.dropWrite_chip (s : State) : (s.dropWrite).chip = s.chip := rfl
@[simp] theorem State.dropWrite_mode (s : State) : (s.dropWrite).mode = s.mode := rfl
@[simp] theorem State.dropWrite_gpr (s : State) : (s.dropWrite).gpr = s.gpr := rfl
@[simp] theorem State.dropWrite_hi (s : State) : (s.dropWrite).hi = s.hi := rfl
@[simp] theorem State.dropWrite_lo (s : State) : (s.dropWrite).lo = s.lo := rfl
@[simp] theorem State.dropWrite_pc (s : State) : (s.dropWrite).pc = s.pc := rfl
@[simp] theorem State.dropWrite_nextPc (s : State) : (s.dropWrite).nextPc = s.nextPc := rfl
@[simp] theorem State.dropWrite_cp0 (s : State) : (s.dropWrite).cp0 = s.cp0 := rfl
@[simp] theorem State.dropWrite_tlb (s : State) : (s.dropWrite).tlb = s.tlb := rfl
@[simp] theorem State.dropWrite_fgr (s : State) : (s.dropWrite).fgr = s.fgr := rfl
@[simp] theorem State.dropWrite_fcr31 (s : State) : (s.dropWrite).fcr31 = s.fcr31 := rfl
@[simp] theorem State.dropWrite_fpaHeld (s : State) : (s.dropWrite).fpaHeld = s.fpaHeld := rfl
@[simp] theorem State.dropWrite_icache (s : State) : (s.dropWrite).icache = s.icache := rfl
@[simp] theorem State.dropWrite_dcache (s : State) : (s.dropWrite).dcache = s.dcache := rfl
@[simp] theorem State.dropWrite_mem (s : State) : (s.dropWrite).mem = s.mem := rfl
@[simp] theorem State.dropWrite_writeBuffer (s : State) : (s.dropWrite).writeBuffer = s.writeBuffer.tail := rfl
@[simp] theorem State.dropWrite_readBuffer (s : State) : (s.dropWrite).readBuffer = s.readBuffer := rfl
@[simp] theorem State.dropWrite_seq (s : State) : (s.dropWrite).seq = s.seq := rfl
@[simp] theorem State.dropWrite_env (s : State) : (s.dropWrite).env = s.env := rfl
@[simp] theorem State.dropWrite_inputs (s : State) : (s.dropWrite).inputs = s.inputs := rfl

@[simp] theorem State.blockBus_chip (s : State) : (s.blockBus).chip = s.chip := by unfold State.blockBus; split <;> rfl
@[simp] theorem State.blockBus_mode (s : State) : (s.blockBus).mode = s.mode := by unfold State.blockBus; split <;> rfl
@[simp] theorem State.blockBus_gpr (s : State) : (s.blockBus).gpr = s.gpr := by unfold State.blockBus; split <;> rfl
@[simp] theorem State.blockBus_hi (s : State) : (s.blockBus).hi = s.hi := by unfold State.blockBus; split <;> rfl
@[simp] theorem State.blockBus_lo (s : State) : (s.blockBus).lo = s.lo := by unfold State.blockBus; split <;> rfl
@[simp] theorem State.blockBus_pc (s : State) : (s.blockBus).pc = s.pc := by unfold State.blockBus; split <;> rfl
@[simp] theorem State.blockBus_nextPc (s : State) : (s.blockBus).nextPc = s.nextPc := by unfold State.blockBus; split <;> rfl
@[simp] theorem State.blockBus_cp0 (s : State) : (s.blockBus).cp0 = s.cp0 := by unfold State.blockBus; split <;> rfl
@[simp] theorem State.blockBus_tlb (s : State) : (s.blockBus).tlb = s.tlb := by unfold State.blockBus; split <;> rfl
@[simp] theorem State.blockBus_fgr (s : State) : (s.blockBus).fgr = s.fgr := by unfold State.blockBus; split <;> rfl
@[simp] theorem State.blockBus_fcr31 (s : State) : (s.blockBus).fcr31 = s.fcr31 := by unfold State.blockBus; split <;> rfl
@[simp] theorem State.blockBus_fpaHeld (s : State) : (s.blockBus).fpaHeld = s.fpaHeld := by unfold State.blockBus; split <;> rfl
@[simp] theorem State.blockBus_icache (s : State) : (s.blockBus).icache = s.icache := by unfold State.blockBus; split <;> rfl
@[simp] theorem State.blockBus_dcache (s : State) : (s.blockBus).dcache = s.dcache := by unfold State.blockBus; split <;> rfl
@[simp] theorem State.blockBus_mem (s : State) : (s.blockBus).mem = s.mem := by unfold State.blockBus; split <;> rfl
@[simp] theorem State.blockBus_writeBuffer (s : State) : (s.blockBus).writeBuffer = s.writeBuffer := by unfold State.blockBus; split <;> rfl
@[simp] theorem State.blockBus_readBuffer (s : State) : (s.blockBus).readBuffer = s.readBuffer := by unfold State.blockBus; split <;> rfl
@[simp] theorem State.blockBus_env (s : State) : (s.blockBus).env = s.env := by unfold State.blockBus; split <;> rfl
@[simp] theorem State.blockBus_inputs (s : State) : (s.blockBus).inputs = s.inputs := by unfold State.blockBus; split <;> rfl

@[simp] theorem State.stall_chip (s : State) : (s.stall).chip = s.chip := rfl
@[simp] theorem State.stall_mode (s : State) : (s.stall).mode = s.mode := rfl
@[simp] theorem State.stall_gpr (s : State) : (s.stall).gpr = s.gpr := rfl
@[simp] theorem State.stall_hi (s : State) : (s.stall).hi = s.hi := rfl
@[simp] theorem State.stall_lo (s : State) : (s.stall).lo = s.lo := rfl
@[simp] theorem State.stall_pc (s : State) : (s.stall).pc = s.pc := rfl
@[simp] theorem State.stall_nextPc (s : State) : (s.stall).nextPc = s.nextPc := rfl
@[simp] theorem State.stall_cp0 (s : State) : (s.stall).cp0 = s.cp0 := rfl
@[simp] theorem State.stall_tlb (s : State) : (s.stall).tlb = s.tlb := rfl
@[simp] theorem State.stall_fgr (s : State) : (s.stall).fgr = s.fgr := rfl
@[simp] theorem State.stall_fcr31 (s : State) : (s.stall).fcr31 = s.fcr31 := rfl
@[simp] theorem State.stall_fpaHeld (s : State) : (s.stall).fpaHeld = s.fpaHeld := rfl
@[simp] theorem State.stall_icache (s : State) : (s.stall).icache = s.icache := rfl
@[simp] theorem State.stall_dcache (s : State) : (s.stall).dcache = s.dcache := rfl
@[simp] theorem State.stall_mem (s : State) : (s.stall).mem = s.mem := rfl
@[simp] theorem State.stall_writeBuffer (s : State) : (s.stall).writeBuffer = s.writeBuffer := rfl
@[simp] theorem State.stall_readBuffer (s : State) : (s.stall).readBuffer = s.readBuffer := rfl
@[simp] theorem State.stall_seq (s : State) : (s.stall).seq = { s.seq with draws := s.seq.draws + 1 } := rfl
@[simp] theorem State.stall_env (s : State) : (s.stall).env = s.env := rfl
@[simp] theorem State.stall_inputs (s : State) : (s.stall).inputs = s.inputs := rfl

@[simp] theorem State.waitForBus_chip (s : State) : (s.waitForBus).chip = s.chip := rfl
@[simp] theorem State.waitForBus_mode (s : State) : (s.waitForBus).mode = s.mode := rfl
@[simp] theorem State.waitForBus_gpr (s : State) : (s.waitForBus).gpr = s.gpr := rfl
@[simp] theorem State.waitForBus_hi (s : State) : (s.waitForBus).hi = s.hi := rfl
@[simp] theorem State.waitForBus_lo (s : State) : (s.waitForBus).lo = s.lo := rfl
@[simp] theorem State.waitForBus_pc (s : State) : (s.waitForBus).pc = s.pc := rfl
@[simp] theorem State.waitForBus_nextPc (s : State) : (s.waitForBus).nextPc = s.nextPc := rfl
@[simp] theorem State.waitForBus_cp0 (s : State) : (s.waitForBus).cp0 = s.cp0 := rfl
@[simp] theorem State.waitForBus_tlb (s : State) : (s.waitForBus).tlb = s.tlb := rfl
@[simp] theorem State.waitForBus_fgr (s : State) : (s.waitForBus).fgr = s.fgr := rfl
@[simp] theorem State.waitForBus_fcr31 (s : State) : (s.waitForBus).fcr31 = s.fcr31 := rfl
@[simp] theorem State.waitForBus_fpaHeld (s : State) : (s.waitForBus).fpaHeld = s.fpaHeld := rfl
@[simp] theorem State.waitForBus_icache (s : State) : (s.waitForBus).icache = s.icache := rfl
@[simp] theorem State.waitForBus_dcache (s : State) : (s.waitForBus).dcache = s.dcache := rfl
@[simp] theorem State.waitForBus_mem (s : State) : (s.waitForBus).mem = s.mem := rfl
@[simp] theorem State.waitForBus_writeBuffer (s : State) : (s.waitForBus).writeBuffer = s.writeBuffer := rfl
@[simp] theorem State.waitForBus_readBuffer (s : State) : (s.waitForBus).readBuffer = s.readBuffer := rfl
@[simp] theorem State.waitForBus_seq (s : State) : (s.waitForBus).seq = { s.seq with draws := s.seq.draws + 1, waiting := true } := rfl
@[simp] theorem State.waitForBus_env (s : State) : (s.waitForBus).env = s.env := rfl
@[simp] theorem State.waitForBus_inputs (s : State) : (s.waitForBus).inputs = s.inputs := rfl

@[simp] theorem State.receive_chip (s : State) (d : CacheSide) (y : BusReply) (ws : List WordAddr) : (s.receive d y ws).chip = s.chip := rfl
@[simp] theorem State.receive_mode (s : State) (d : CacheSide) (y : BusReply) (ws : List WordAddr) : (s.receive d y ws).mode = s.mode := rfl
@[simp] theorem State.receive_gpr (s : State) (d : CacheSide) (y : BusReply) (ws : List WordAddr) : (s.receive d y ws).gpr = s.gpr := rfl
@[simp] theorem State.receive_hi (s : State) (d : CacheSide) (y : BusReply) (ws : List WordAddr) : (s.receive d y ws).hi = s.hi := rfl
@[simp] theorem State.receive_lo (s : State) (d : CacheSide) (y : BusReply) (ws : List WordAddr) : (s.receive d y ws).lo = s.lo := rfl
@[simp] theorem State.receive_pc (s : State) (d : CacheSide) (y : BusReply) (ws : List WordAddr) : (s.receive d y ws).pc = s.pc := rfl
@[simp] theorem State.receive_nextPc (s : State) (d : CacheSide) (y : BusReply) (ws : List WordAddr) : (s.receive d y ws).nextPc = s.nextPc := rfl
@[simp] theorem State.receive_cp0 (s : State) (d : CacheSide) (y : BusReply) (ws : List WordAddr) : (s.receive d y ws).cp0 = s.cp0 := rfl
@[simp] theorem State.receive_tlb (s : State) (d : CacheSide) (y : BusReply) (ws : List WordAddr) : (s.receive d y ws).tlb = s.tlb := rfl
@[simp] theorem State.receive_fgr (s : State) (d : CacheSide) (y : BusReply) (ws : List WordAddr) : (s.receive d y ws).fgr = s.fgr := rfl
@[simp] theorem State.receive_fcr31 (s : State) (d : CacheSide) (y : BusReply) (ws : List WordAddr) : (s.receive d y ws).fcr31 = s.fcr31 := rfl
@[simp] theorem State.receive_fpaHeld (s : State) (d : CacheSide) (y : BusReply) (ws : List WordAddr) : (s.receive d y ws).fpaHeld = s.fpaHeld := rfl
@[simp] theorem State.receive_icache (s : State) (d : CacheSide) (y : BusReply) (ws : List WordAddr) : (s.receive d y ws).icache = s.icache := rfl
@[simp] theorem State.receive_dcache (s : State) (d : CacheSide) (y : BusReply) (ws : List WordAddr) : (s.receive d y ws).dcache = s.dcache := rfl
@[simp] theorem State.receive_mem (s : State) (d : CacheSide) (y : BusReply) (ws : List WordAddr) : (s.receive d y ws).mem = s.mem := rfl
@[simp] theorem State.receive_writeBuffer (s : State) (d : CacheSide) (y : BusReply) (ws : List WordAddr) : (s.receive d y ws).writeBuffer = s.writeBuffer := rfl
@[simp] theorem State.receive_seq (s : State) (d : CacheSide) (y : BusReply) (ws : List WordAddr) : (s.receive d y ws).seq = s.seq := rfl
@[simp] theorem State.receive_env (s : State) (d : CacheSide) (y : BusReply) (ws : List WordAddr) : (s.receive d y ws).env = s.env := rfl
@[simp] theorem State.receive_inputs (s : State) (d : CacheSide) (y : BusReply) (ws : List WordAddr) : (s.receive d y ws).inputs = s.inputs := rfl

@[simp] theorem State.deliverLoad_chip (s : State) : s.deliverLoad.chip = s.chip := by
  unfold State.deliverLoad; split <;> simp
@[simp] theorem State.deliverFpLoad_chip (s : State) : s.deliverFpLoad.chip = s.chip := by
  unfold State.deliverFpLoad; split <;> simp
@[simp] theorem State.deliverLoad_mode (s : State) : s.deliverLoad.mode = s.mode := by
  unfold State.deliverLoad; split <;> simp
@[simp] theorem State.deliverFpLoad_mode (s : State) : s.deliverFpLoad.mode = s.mode := by
  unfold State.deliverFpLoad; split <;> simp
@[simp] theorem State.deliverFpLoad_gpr (s : State) : s.deliverFpLoad.gpr = s.gpr := by
  unfold State.deliverFpLoad; split <;> simp
@[simp] theorem State.deliverLoad_hi (s : State) : s.deliverLoad.hi = s.hi := by
  unfold State.deliverLoad; split <;> simp
@[simp] theorem State.deliverFpLoad_hi (s : State) : s.deliverFpLoad.hi = s.hi := by
  unfold State.deliverFpLoad; split <;> simp
@[simp] theorem State.deliverLoad_lo (s : State) : s.deliverLoad.lo = s.lo := by
  unfold State.deliverLoad; split <;> simp
@[simp] theorem State.deliverFpLoad_lo (s : State) : s.deliverFpLoad.lo = s.lo := by
  unfold State.deliverFpLoad; split <;> simp
@[simp] theorem State.deliverLoad_pc (s : State) : s.deliverLoad.pc = s.pc := by
  unfold State.deliverLoad; split <;> simp
@[simp] theorem State.deliverFpLoad_pc (s : State) : s.deliverFpLoad.pc = s.pc := by
  unfold State.deliverFpLoad; split <;> simp
@[simp] theorem State.deliverLoad_nextPc (s : State) : s.deliverLoad.nextPc = s.nextPc := by
  unfold State.deliverLoad; split <;> simp
@[simp] theorem State.deliverFpLoad_nextPc (s : State) : s.deliverFpLoad.nextPc = s.nextPc := by
  unfold State.deliverFpLoad; split <;> simp
@[simp] theorem State.deliverLoad_cp0 (s : State) : s.deliverLoad.cp0 = s.cp0 := by
  unfold State.deliverLoad; split <;> simp
@[simp] theorem State.deliverFpLoad_cp0 (s : State) : s.deliverFpLoad.cp0 = s.cp0 := by
  unfold State.deliverFpLoad; split <;> simp
@[simp] theorem State.deliverLoad_tlb (s : State) : s.deliverLoad.tlb = s.tlb := by
  unfold State.deliverLoad; split <;> simp
@[simp] theorem State.deliverFpLoad_tlb (s : State) : s.deliverFpLoad.tlb = s.tlb := by
  unfold State.deliverFpLoad; split <;> simp
@[simp] theorem State.deliverLoad_fgr (s : State) : s.deliverLoad.fgr = s.fgr := by
  unfold State.deliverLoad; split <;> simp
@[simp] theorem State.deliverLoad_fcr31 (s : State) : s.deliverLoad.fcr31 = s.fcr31 := by
  unfold State.deliverLoad; split <;> simp
@[simp] theorem State.deliverFpLoad_fcr31 (s : State) : s.deliverFpLoad.fcr31 = s.fcr31 := by
  unfold State.deliverFpLoad; split <;> simp
@[simp] theorem State.deliverLoad_fpaHeld (s : State) : s.deliverLoad.fpaHeld = s.fpaHeld := by
  unfold State.deliverLoad; split <;> simp
@[simp] theorem State.deliverFpLoad_fpaHeld (s : State) : s.deliverFpLoad.fpaHeld = s.fpaHeld := by
  unfold State.deliverFpLoad; split <;> simp
@[simp] theorem State.deliverLoad_icache (s : State) : s.deliverLoad.icache = s.icache := by
  unfold State.deliverLoad; split <;> simp
@[simp] theorem State.deliverFpLoad_icache (s : State) : s.deliverFpLoad.icache = s.icache := by
  unfold State.deliverFpLoad; split <;> simp
@[simp] theorem State.deliverLoad_dcache (s : State) : s.deliverLoad.dcache = s.dcache := by
  unfold State.deliverLoad; split <;> simp
@[simp] theorem State.deliverFpLoad_dcache (s : State) : s.deliverFpLoad.dcache = s.dcache := by
  unfold State.deliverFpLoad; split <;> simp
@[simp] theorem State.deliverLoad_mem (s : State) : s.deliverLoad.mem = s.mem := by
  unfold State.deliverLoad; split <;> simp
@[simp] theorem State.deliverFpLoad_mem (s : State) : s.deliverFpLoad.mem = s.mem := by
  unfold State.deliverFpLoad; split <;> simp
@[simp] theorem State.deliverLoad_writeBuffer (s : State) : s.deliverLoad.writeBuffer = s.writeBuffer := by
  unfold State.deliverLoad; split <;> simp
@[simp] theorem State.deliverFpLoad_writeBuffer (s : State) : s.deliverFpLoad.writeBuffer = s.writeBuffer := by
  unfold State.deliverFpLoad; split <;> simp
@[simp] theorem State.deliverLoad_readBuffer (s : State) : s.deliverLoad.readBuffer = s.readBuffer := by
  unfold State.deliverLoad; split <;> simp
@[simp] theorem State.deliverFpLoad_readBuffer (s : State) : s.deliverFpLoad.readBuffer = s.readBuffer := by
  unfold State.deliverFpLoad; split <;> simp
@[simp] theorem State.deliverLoad_seq (s : State) : s.deliverLoad.seq = s.seq := by
  unfold State.deliverLoad; split <;> simp
@[simp] theorem State.deliverFpLoad_seq (s : State) : s.deliverFpLoad.seq = s.seq := by
  unfold State.deliverFpLoad; split <;> simp
@[simp] theorem State.deliverLoad_env (s : State) : s.deliverLoad.env = s.env := by
  unfold State.deliverLoad; split <;> simp
@[simp] theorem State.deliverFpLoad_env (s : State) : s.deliverFpLoad.env = s.env := by
  unfold State.deliverFpLoad; split <;> simp
@[simp] theorem State.deliverLoad_inputs (s : State) : s.deliverLoad.inputs = s.inputs := by
  unfold State.deliverLoad; split <;> simp
@[simp] theorem State.deliverFpLoad_inputs (s : State) : s.deliverFpLoad.inputs = s.inputs := by
  unfold State.deliverFpLoad; split <;> simp
@[simp] theorem State.commitLoads_chip (s : State) : s.commitLoads.chip = s.chip := by
  simp [State.commitLoads]
@[simp] theorem State.commitLoads_mode (s : State) : s.commitLoads.mode = s.mode := by
  simp [State.commitLoads]
@[simp] theorem State.commitLoads_hi (s : State) : s.commitLoads.hi = s.hi := by
  simp [State.commitLoads]
@[simp] theorem State.commitLoads_lo (s : State) : s.commitLoads.lo = s.lo := by
  simp [State.commitLoads]
@[simp] theorem State.commitLoads_pc (s : State) : s.commitLoads.pc = s.pc := by
  simp [State.commitLoads]
@[simp] theorem State.commitLoads_nextPc (s : State) : s.commitLoads.nextPc = s.nextPc := by
  simp [State.commitLoads]
@[simp] theorem State.commitLoads_cp0 (s : State) : s.commitLoads.cp0 = s.cp0 := by
  simp [State.commitLoads]
@[simp] theorem State.commitLoads_tlb (s : State) : s.commitLoads.tlb = s.tlb := by
  simp [State.commitLoads]
@[simp] theorem State.commitLoads_fcr31 (s : State) : s.commitLoads.fcr31 = s.fcr31 := by
  simp [State.commitLoads]
@[simp] theorem State.commitLoads_fpaHeld (s : State) : s.commitLoads.fpaHeld = s.fpaHeld := by
  simp [State.commitLoads]
@[simp] theorem State.commitLoads_icache (s : State) : s.commitLoads.icache = s.icache := by
  simp [State.commitLoads]
@[simp] theorem State.commitLoads_dcache (s : State) : s.commitLoads.dcache = s.dcache := by
  simp [State.commitLoads]
@[simp] theorem State.commitLoads_mem (s : State) : s.commitLoads.mem = s.mem := by
  simp [State.commitLoads]
@[simp] theorem State.commitLoads_writeBuffer (s : State) : s.commitLoads.writeBuffer = s.writeBuffer := by
  simp [State.commitLoads]
@[simp] theorem State.commitLoads_readBuffer (s : State) : s.commitLoads.readBuffer = s.readBuffer := by
  simp [State.commitLoads]
@[simp] theorem State.commitLoads_env (s : State) : s.commitLoads.env = s.env := by
  simp [State.commitLoads]
@[simp] theorem State.commitLoads_inputs (s : State) : s.commitLoads.inputs = s.inputs := by
  simp [State.commitLoads]
@[simp] theorem State.commitLoads_seq (s : State) : s.commitLoads.seq =
    { s.seq with loadPending := none, fpLoadPending := none } := by
  simp [State.commitLoads]

@[simp] theorem State.advance_chip (s : State) (b : Bool) (t : Option Word) :
    (s.advance b t).chip = s.chip := by simp [State.advance]
@[simp] theorem State.advance_mode (s : State) (b : Bool) (t : Option Word) :
    (s.advance b t).mode = s.mode := by simp [State.advance]
@[simp] theorem State.advance_hi (s : State) (b : Bool) (t : Option Word) :
    (s.advance b t).hi = s.hi := by simp [State.advance]
@[simp] theorem State.advance_lo (s : State) (b : Bool) (t : Option Word) :
    (s.advance b t).lo = s.lo := by simp [State.advance]
@[simp] theorem State.advance_tlb (s : State) (b : Bool) (t : Option Word) :
    (s.advance b t).tlb = s.tlb := by simp [State.advance]
@[simp] theorem State.advance_fcr31 (s : State) (b : Bool) (t : Option Word) :
    (s.advance b t).fcr31 = s.fcr31 := by simp [State.advance]
@[simp] theorem State.advance_fpaHeld (s : State) (b : Bool) (t : Option Word) :
    (s.advance b t).fpaHeld = s.fpaHeld := by simp [State.advance]
@[simp] theorem State.advance_icache (s : State) (b : Bool) (t : Option Word) :
    (s.advance b t).icache = s.icache := by simp [State.advance]
@[simp] theorem State.advance_dcache (s : State) (b : Bool) (t : Option Word) :
    (s.advance b t).dcache = s.dcache := by simp [State.advance]
@[simp] theorem State.advance_mem (s : State) (b : Bool) (t : Option Word) :
    (s.advance b t).mem = s.mem := by simp [State.advance]
@[simp] theorem State.advance_writeBuffer (s : State) (b : Bool) (t : Option Word) :
    (s.advance b t).writeBuffer = s.writeBuffer := by simp [State.advance]
@[simp] theorem State.advance_readBuffer (s : State) (b : Bool) (t : Option Word) :
    (s.advance b t).readBuffer = s.readBuffer := by simp [State.advance]
@[simp] theorem State.advance_env (s : State) (b : Bool) (t : Option Word) :
    (s.advance b t).env = s.env := by simp [State.advance]
@[simp] theorem State.advance_inputs (s : State) (b : Bool) (t : Option Word) :
    (s.advance b t).inputs = s.inputs := by simp [State.advance]
@[simp] theorem State.advance_pc (s : State) (b : Bool) (t : Option Word) :
    (s.advance b t).pc = s.nextPc := rfl
@[simp] theorem State.advance_cp0 (s : State) (b : Bool) (t : Option Word) :
    (s.advance b t).cp0 = { s.cp0 with random := randomDraw s.seq.draws } := by
  simp [State.advance, State.turnOver]

@[simp] theorem State.takeException_chip (s : State) (x : Exc) :
    (s.takeException x).chip = s.chip := by simp [State.takeException]
@[simp] theorem State.takeException_mode (s : State) (x : Exc) :
    (s.takeException x).mode = s.mode := by simp [State.takeException]
@[simp] theorem State.takeException_hi (s : State) (x : Exc) :
    (s.takeException x).hi = s.hi := by simp [State.takeException]
@[simp] theorem State.takeException_lo (s : State) (x : Exc) :
    (s.takeException x).lo = s.lo := by simp [State.takeException]
@[simp] theorem State.takeException_tlb (s : State) (x : Exc) :
    (s.takeException x).tlb = s.tlb := by simp [State.takeException]
@[simp] theorem State.takeException_fcr31 (s : State) (x : Exc) :
    (s.takeException x).fcr31 = s.fcr31 := by simp [State.takeException]
@[simp] theorem State.takeException_fpaHeld (s : State) (x : Exc) :
    (s.takeException x).fpaHeld = s.fpaHeld := by simp [State.takeException]
@[simp] theorem State.takeException_icache (s : State) (x : Exc) :
    (s.takeException x).icache = s.icache := by simp [State.takeException]
@[simp] theorem State.takeException_dcache (s : State) (x : Exc) :
    (s.takeException x).dcache = s.dcache := by simp [State.takeException]
@[simp] theorem State.takeException_mem (s : State) (x : Exc) :
    (s.takeException x).mem = s.mem := by simp [State.takeException]
@[simp] theorem State.takeException_writeBuffer (s : State) (x : Exc) :
    (s.takeException x).writeBuffer = s.writeBuffer := by simp [State.takeException]
@[simp] theorem State.takeException_readBuffer (s : State) (x : Exc) :
    (s.takeException x).readBuffer = s.readBuffer := by simp [State.takeException]
@[simp] theorem State.takeException_env (s : State) (x : Exc) :
    (s.takeException x).env = s.env := by simp [State.takeException]
@[simp] theorem State.takeException_inputs (s : State) (x : Exc) :
    (s.takeException x).inputs = s.inputs := by simp [State.takeException]
@[simp] theorem State.withCache_chip (s : State) (d : CacheSide) (c : Cache) :
    (s.withCache d c).chip = s.chip := by cases d <;> rfl
@[simp] theorem State.fillWord_chip (s : State) (d : CacheSide) (w : WordAddr) (v : Word) (p : Bool) :
    (s.fillWord d w v p).chip = s.chip := by simp [State.fillWord]
@[simp] theorem State.invalidateWord_chip (s : State) (d : CacheSide) (w : WordAddr) (p : Bool) :
    (s.invalidateWord d w p).chip = s.chip := by simp [State.invalidateWord]
@[simp] theorem State.withCache_mode (s : State) (d : CacheSide) (c : Cache) :
    (s.withCache d c).mode = s.mode := by cases d <;> rfl
@[simp] theorem State.fillWord_mode (s : State) (d : CacheSide) (w : WordAddr) (v : Word) (p : Bool) :
    (s.fillWord d w v p).mode = s.mode := by simp [State.fillWord]
@[simp] theorem State.invalidateWord_mode (s : State) (d : CacheSide) (w : WordAddr) (p : Bool) :
    (s.invalidateWord d w p).mode = s.mode := by simp [State.invalidateWord]
@[simp] theorem State.withCache_gpr (s : State) (d : CacheSide) (c : Cache) :
    (s.withCache d c).gpr = s.gpr := by cases d <;> rfl
@[simp] theorem State.fillWord_gpr (s : State) (d : CacheSide) (w : WordAddr) (v : Word) (p : Bool) :
    (s.fillWord d w v p).gpr = s.gpr := by simp [State.fillWord]
@[simp] theorem State.invalidateWord_gpr (s : State) (d : CacheSide) (w : WordAddr) (p : Bool) :
    (s.invalidateWord d w p).gpr = s.gpr := by simp [State.invalidateWord]
@[simp] theorem State.withCache_hi (s : State) (d : CacheSide) (c : Cache) :
    (s.withCache d c).hi = s.hi := by cases d <;> rfl
@[simp] theorem State.fillWord_hi (s : State) (d : CacheSide) (w : WordAddr) (v : Word) (p : Bool) :
    (s.fillWord d w v p).hi = s.hi := by simp [State.fillWord]
@[simp] theorem State.invalidateWord_hi (s : State) (d : CacheSide) (w : WordAddr) (p : Bool) :
    (s.invalidateWord d w p).hi = s.hi := by simp [State.invalidateWord]
@[simp] theorem State.withCache_lo (s : State) (d : CacheSide) (c : Cache) :
    (s.withCache d c).lo = s.lo := by cases d <;> rfl
@[simp] theorem State.fillWord_lo (s : State) (d : CacheSide) (w : WordAddr) (v : Word) (p : Bool) :
    (s.fillWord d w v p).lo = s.lo := by simp [State.fillWord]
@[simp] theorem State.invalidateWord_lo (s : State) (d : CacheSide) (w : WordAddr) (p : Bool) :
    (s.invalidateWord d w p).lo = s.lo := by simp [State.invalidateWord]
@[simp] theorem State.withCache_pc (s : State) (d : CacheSide) (c : Cache) :
    (s.withCache d c).pc = s.pc := by cases d <;> rfl
@[simp] theorem State.fillWord_pc (s : State) (d : CacheSide) (w : WordAddr) (v : Word) (p : Bool) :
    (s.fillWord d w v p).pc = s.pc := by simp [State.fillWord]
@[simp] theorem State.invalidateWord_pc (s : State) (d : CacheSide) (w : WordAddr) (p : Bool) :
    (s.invalidateWord d w p).pc = s.pc := by simp [State.invalidateWord]
@[simp] theorem State.withCache_nextPc (s : State) (d : CacheSide) (c : Cache) :
    (s.withCache d c).nextPc = s.nextPc := by cases d <;> rfl
@[simp] theorem State.fillWord_nextPc (s : State) (d : CacheSide) (w : WordAddr) (v : Word) (p : Bool) :
    (s.fillWord d w v p).nextPc = s.nextPc := by simp [State.fillWord]
@[simp] theorem State.invalidateWord_nextPc (s : State) (d : CacheSide) (w : WordAddr) (p : Bool) :
    (s.invalidateWord d w p).nextPc = s.nextPc := by simp [State.invalidateWord]
@[simp] theorem State.withCache_cp0 (s : State) (d : CacheSide) (c : Cache) :
    (s.withCache d c).cp0 = s.cp0 := by cases d <;> rfl
@[simp] theorem State.fillWord_cp0 (s : State) (d : CacheSide) (w : WordAddr) (v : Word) (p : Bool) :
    (s.fillWord d w v p).cp0 = s.cp0 := by simp [State.fillWord]
@[simp] theorem State.invalidateWord_cp0 (s : State) (d : CacheSide) (w : WordAddr) (p : Bool) :
    (s.invalidateWord d w p).cp0 = s.cp0 := by simp [State.invalidateWord]
@[simp] theorem State.withCache_tlb (s : State) (d : CacheSide) (c : Cache) :
    (s.withCache d c).tlb = s.tlb := by cases d <;> rfl
@[simp] theorem State.fillWord_tlb (s : State) (d : CacheSide) (w : WordAddr) (v : Word) (p : Bool) :
    (s.fillWord d w v p).tlb = s.tlb := by simp [State.fillWord]
@[simp] theorem State.invalidateWord_tlb (s : State) (d : CacheSide) (w : WordAddr) (p : Bool) :
    (s.invalidateWord d w p).tlb = s.tlb := by simp [State.invalidateWord]
@[simp] theorem State.withCache_fgr (s : State) (d : CacheSide) (c : Cache) :
    (s.withCache d c).fgr = s.fgr := by cases d <;> rfl
@[simp] theorem State.fillWord_fgr (s : State) (d : CacheSide) (w : WordAddr) (v : Word) (p : Bool) :
    (s.fillWord d w v p).fgr = s.fgr := by simp [State.fillWord]
@[simp] theorem State.invalidateWord_fgr (s : State) (d : CacheSide) (w : WordAddr) (p : Bool) :
    (s.invalidateWord d w p).fgr = s.fgr := by simp [State.invalidateWord]
@[simp] theorem State.withCache_fcr31 (s : State) (d : CacheSide) (c : Cache) :
    (s.withCache d c).fcr31 = s.fcr31 := by cases d <;> rfl
@[simp] theorem State.fillWord_fcr31 (s : State) (d : CacheSide) (w : WordAddr) (v : Word) (p : Bool) :
    (s.fillWord d w v p).fcr31 = s.fcr31 := by simp [State.fillWord]
@[simp] theorem State.invalidateWord_fcr31 (s : State) (d : CacheSide) (w : WordAddr) (p : Bool) :
    (s.invalidateWord d w p).fcr31 = s.fcr31 := by simp [State.invalidateWord]
@[simp] theorem State.withCache_fpaHeld (s : State) (d : CacheSide) (c : Cache) :
    (s.withCache d c).fpaHeld = s.fpaHeld := by cases d <;> rfl
@[simp] theorem State.fillWord_fpaHeld (s : State) (d : CacheSide) (w : WordAddr) (v : Word) (p : Bool) :
    (s.fillWord d w v p).fpaHeld = s.fpaHeld := by simp [State.fillWord]
@[simp] theorem State.invalidateWord_fpaHeld (s : State) (d : CacheSide) (w : WordAddr) (p : Bool) :
    (s.invalidateWord d w p).fpaHeld = s.fpaHeld := by simp [State.invalidateWord]
@[simp] theorem State.withCache_mem (s : State) (d : CacheSide) (c : Cache) :
    (s.withCache d c).mem = s.mem := by cases d <;> rfl
@[simp] theorem State.fillWord_mem (s : State) (d : CacheSide) (w : WordAddr) (v : Word) (p : Bool) :
    (s.fillWord d w v p).mem = s.mem := by simp [State.fillWord]
@[simp] theorem State.invalidateWord_mem (s : State) (d : CacheSide) (w : WordAddr) (p : Bool) :
    (s.invalidateWord d w p).mem = s.mem := by simp [State.invalidateWord]
@[simp] theorem State.withCache_writeBuffer (s : State) (d : CacheSide) (c : Cache) :
    (s.withCache d c).writeBuffer = s.writeBuffer := by cases d <;> rfl
@[simp] theorem State.fillWord_writeBuffer (s : State) (d : CacheSide) (w : WordAddr) (v : Word) (p : Bool) :
    (s.fillWord d w v p).writeBuffer = s.writeBuffer := by simp [State.fillWord]
@[simp] theorem State.invalidateWord_writeBuffer (s : State) (d : CacheSide) (w : WordAddr) (p : Bool) :
    (s.invalidateWord d w p).writeBuffer = s.writeBuffer := by simp [State.invalidateWord]
@[simp] theorem State.withCache_readBuffer (s : State) (d : CacheSide) (c : Cache) :
    (s.withCache d c).readBuffer = s.readBuffer := by cases d <;> rfl
@[simp] theorem State.fillWord_readBuffer (s : State) (d : CacheSide) (w : WordAddr) (v : Word) (p : Bool) :
    (s.fillWord d w v p).readBuffer = s.readBuffer := by simp [State.fillWord]
@[simp] theorem State.invalidateWord_readBuffer (s : State) (d : CacheSide) (w : WordAddr) (p : Bool) :
    (s.invalidateWord d w p).readBuffer = s.readBuffer := by simp [State.invalidateWord]
@[simp] theorem State.withCache_seq (s : State) (d : CacheSide) (c : Cache) :
    (s.withCache d c).seq = s.seq := by cases d <;> rfl
@[simp] theorem State.fillWord_seq (s : State) (d : CacheSide) (w : WordAddr) (v : Word) (p : Bool) :
    (s.fillWord d w v p).seq = s.seq := by simp [State.fillWord]
@[simp] theorem State.invalidateWord_seq (s : State) (d : CacheSide) (w : WordAddr) (p : Bool) :
    (s.invalidateWord d w p).seq = s.seq := by simp [State.invalidateWord]
@[simp] theorem State.withCache_env (s : State) (d : CacheSide) (c : Cache) :
    (s.withCache d c).env = s.env := by cases d <;> rfl
@[simp] theorem State.fillWord_env (s : State) (d : CacheSide) (w : WordAddr) (v : Word) (p : Bool) :
    (s.fillWord d w v p).env = s.env := by simp [State.fillWord]
@[simp] theorem State.invalidateWord_env (s : State) (d : CacheSide) (w : WordAddr) (p : Bool) :
    (s.invalidateWord d w p).env = s.env := by simp [State.invalidateWord]
@[simp] theorem State.withCache_inputs (s : State) (d : CacheSide) (c : Cache) :
    (s.withCache d c).inputs = s.inputs := by cases d <;> rfl
@[simp] theorem State.fillWord_inputs (s : State) (d : CacheSide) (w : WordAddr) (v : Word) (p : Bool) :
    (s.fillWord d w v p).inputs = s.inputs := by simp [State.fillWord]
@[simp] theorem State.invalidateWord_inputs (s : State) (d : CacheSide) (w : WordAddr) (p : Bool) :
    (s.invalidateWord d w p).inputs = s.inputs := by simp [State.invalidateWord]
@[simp] theorem State.post_chip (s : State) (e : PendingStore) : (s.post e).chip = s.chip := by
  unfold State.post; split <;> simp
@[simp] theorem State.post_mode (s : State) (e : PendingStore) : (s.post e).mode = s.mode := by
  unfold State.post; split <;> simp
@[simp] theorem State.post_gpr (s : State) (e : PendingStore) : (s.post e).gpr = s.gpr := by
  unfold State.post; split <;> simp
@[simp] theorem State.post_hi (s : State) (e : PendingStore) : (s.post e).hi = s.hi := by
  unfold State.post; split <;> simp
@[simp] theorem State.post_lo (s : State) (e : PendingStore) : (s.post e).lo = s.lo := by
  unfold State.post; split <;> simp
@[simp] theorem State.post_pc (s : State) (e : PendingStore) : (s.post e).pc = s.pc := by
  unfold State.post; split <;> simp
@[simp] theorem State.post_nextPc (s : State) (e : PendingStore) : (s.post e).nextPc = s.nextPc := by
  unfold State.post; split <;> simp
@[simp] theorem State.post_cp0 (s : State) (e : PendingStore) : (s.post e).cp0 = s.cp0 := by
  unfold State.post; split <;> simp
@[simp] theorem State.post_tlb (s : State) (e : PendingStore) : (s.post e).tlb = s.tlb := by
  unfold State.post; split <;> simp
@[simp] theorem State.post_fgr (s : State) (e : PendingStore) : (s.post e).fgr = s.fgr := by
  unfold State.post; split <;> simp
@[simp] theorem State.post_fcr31 (s : State) (e : PendingStore) : (s.post e).fcr31 = s.fcr31 := by
  unfold State.post; split <;> simp
@[simp] theorem State.post_fpaHeld (s : State) (e : PendingStore) : (s.post e).fpaHeld = s.fpaHeld := by
  unfold State.post; split <;> simp
@[simp] theorem State.post_icache (s : State) (e : PendingStore) : (s.post e).icache = s.icache := by
  unfold State.post; split <;> simp
@[simp] theorem State.post_dcache (s : State) (e : PendingStore) : (s.post e).dcache = s.dcache := by
  unfold State.post; split <;> simp
@[simp] theorem State.post_readBuffer (s : State) (e : PendingStore) : (s.post e).readBuffer = s.readBuffer := by
  unfold State.post; split <;> simp
@[simp] theorem State.post_seq (s : State) (e : PendingStore) : (s.post e).seq = s.seq := by
  unfold State.post; split <;> simp
@[simp] theorem State.post_env (s : State) (e : PendingStore) : (s.post e).env = s.env := by
  unfold State.post; split <;> simp
@[simp] theorem State.post_inputs (s : State) (e : PendingStore) : (s.post e).inputs = s.inputs := by
  unfold State.post; split <;> simp

end Sys2Proof.Machine
end

