-- ==== Sys2Proof/Laws/Memory.lean ====
section
/-! SUPPORT. Sparse maps, memory bytes and lanes, the canonical form, and the write buffer. -/

namespace Sys2Proof.Machine

/-! ## Sparse maps -/

theorem Sparse.lookup_insert {β : Type} (l : List (Nat × β)) (a b : Nat) (v : β) :
    Sparse.lookup (Sparse.insert a v l) b = if a = b then some v else Sparse.lookup l b := by
  induction l with
  | nil => simp [Sparse.insert, Sparse.lookup]
  | cons e t ih =>
    obtain ⟨k, w⟩ := e
    simp only [Sparse.insert]
    split
    · simp [Sparse.lookup]
    · split
      · rename_i h; subst h; by_cases hb : a = b <;> simp [Sparse.lookup, hb]
      · by_cases hk : k = b
        · have : a ≠ b := by omega
          simp [Sparse.lookup, hk, this]
        · simp [Sparse.lookup, hk, ih]

theorem Sparse.lookup_erase {β : Type} (l : List (Nat × β)) (a b : Nat) :
    Sparse.lookup (Sparse.erase a l) b = if a = b then none else Sparse.lookup l b := by
  induction l with
  | nil => simp [Sparse.erase, Sparse.lookup]
  | cons e t ih =>
    obtain ⟨k, w⟩ := e
    simp only [Sparse.erase] at ih
    by_cases hk : k = a
    · subst hk
      simp only [Sparse.erase, List.filter, BEq.rfl, Bool.not_true]
      rw [ih]; by_cases hb : k = b <;> simp [Sparse.lookup, hb]
    · have : (k == a) = false := by simp [hk]
      simp only [Sparse.erase, List.filter, this, Bool.not_false, Sparse.lookup]
      rw [ih]
      by_cases hb : k = b
      · have : ¬ a = b := by omega
        simp [hb, this]
      · simp [hb]

theorem Sparse.get_set {β : Type} [DecidableEq β] (d : β) (l : List (Nat × β)) (a b : Nat) (v : β) :
    Sparse.get d (Sparse.set d l a v) b = if a = b then v else Sparse.get d l b := by
  unfold Sparse.get Sparse.set
  by_cases hv : v = d
  · rw [if_pos hv, Sparse.lookup_erase]
    by_cases hab : a = b <;> simp [hab, hv]
  · rw [if_neg hv, Sparse.lookup_insert]
    by_cases hab : a = b <;> simp [hab]

theorem Sparse.wf_erase {β : Type} [DecidableEq β] (d : β) (n a : Nat) (l : List (Nat × β))
    (h : Sparse.wf d n l = true) : Sparse.wf d n (Sparse.erase a l) = true := by
  induction l with
  | nil => rfl
  | cons e t ih =>
    obtain ⟨k, w⟩ := e
    simp only [Sparse.wf, Bool.and_eq_true] at h
    have ht := ih h.2
    simp only [Sparse.erase, List.filter] at ht ⊢
    split
    · simp only [Sparse.wf, Bool.and_eq_true]
      refine ⟨⟨h.1.1, ?_⟩, ht⟩
      have := h.1.2
      rw [List.all_eq_true] at this ⊢
      intro x hx; exact this x (List.mem_filter.mp hx).1
    · exact ht

theorem Sparse.all_insert {β : Type} (k a : Nat) (v : β) (l : List (Nat × β)) (hka : k < a)
    (h : l.all (fun e => decide (k < e.1)) = true) :
    (Sparse.insert a v l).all (fun e => decide (k < e.1)) = true := by
  induction l with
  | nil => simp [Sparse.insert, hka]
  | cons e t ih =>
    obtain ⟨j, w⟩ := e
    simp only [List.all_cons, Bool.and_eq_true] at h
    simp only [Sparse.insert]
    split
    · simp only [List.all_cons, Bool.and_eq_true, h.1, h.2, decide_eq_true hka, and_self]
    · split
      · simp only [List.all_cons, Bool.and_eq_true, h.2, decide_eq_true hka, and_self]
      · simp only [List.all_cons, Bool.and_eq_true]
        exact ⟨h.1, ih h.2⟩

theorem Sparse.wf_insert {β : Type} [DecidableEq β] (d : β) (n a : Nat) (v : β) (l : List (Nat × β))
    (hv : v ≠ d) (ha : a < n) (h : Sparse.wf d n l = true) :
    Sparse.wf d n (Sparse.insert a v l) = true := by
  induction l with
  | nil => simp [Sparse.insert, Sparse.wf, hv, ha]
  | cons e t ih =>
    obtain ⟨k, w⟩ := e
    have h' := h
    simp only [Sparse.wf, Bool.and_eq_true] at h
    simp only [Sparse.insert]
    split
    · rename_i hak
      simp only [Sparse.wf, Bool.and_eq_true, List.all_cons, decide_eq_true ha, decide_eq_true hak,
        true_and]
      refine ⟨⟨by simp [hv], ?_⟩, ⟨⟨h.1.1, h.1.2⟩, h.2⟩⟩
      have := h.1.2
      rw [List.all_eq_true] at this ⊢
      intro x hx
      have := this x hx
      simp only [decide_eq_true_eq] at this ⊢
      omega
    · split
      · rename_i hak; subst hak
        simp only [Sparse.wf, Bool.and_eq_true, decide_eq_true ha, true_and]
        exact ⟨⟨by simp [hv], h.1.2⟩, h.2⟩
      · rename_i h1 h2
        simp only [Sparse.wf, Bool.and_eq_true]
        exact ⟨⟨h.1.1, Sparse.all_insert k a v t (by omega) h.1.2⟩, ih h.2⟩

theorem Sparse.wf_set {β : Type} [DecidableEq β] (d : β) (n a : Nat) (v : β) (l : List (Nat × β))
    (ha : a < n) (h : Sparse.wf d n l = true) : Sparse.wf d n (Sparse.set d l a v) = true := by
  unfold Sparse.set
  split
  · exact Sparse.wf_erase d n a l h
  · rename_i hv; exact Sparse.wf_insert d n a v l hv ha h

/-! ## Bytes, lanes and words -/

theorem laneCell_lt (w : WordAddr) (k : Nat) (hk : k < 4) : laneCell w k < 2 ^ 32 := by
  have := w.isLt
  unfold laneCell
  omega

theorem laneCell_inj (v w : WordAddr) (j k : Nat) (hj : j < 4) (hk : k < 4)
    (h : laneCell v j = laneCell w k) : v = w ∧ j = k := by
  unfold laneCell at h
  exact ⟨BitVec.eq_of_toNat_eq (by omega), by omega⟩

/-- The byte address of a lane is kept in that lane (20_memory.md R82, R86). -/
theorem byteCell_laneAddress (b : Bool) (w : WordAddr) (k : Nat) (hk : k < 4) :
    byteCell b (laneAddress b w k) = laneCell w k := by
  unfold byteCell laneAddress laneCell
  cases b
  · simp
  · simp only [if_true]; omega

/-- A byte address names one lane of one word. -/
theorem byteCell_inj (b : Bool) (a c : Nat) (h : byteCell b a = byteCell b c) : a = c := by
  unfold byteCell at h
  cases b
  · simpa using h
  · simp only [if_true] at h; omega

theorem Memory.wf_write (m : List Host.Cell) (a : Nat) (b : Byte) (ha : a < 2 ^ 32)
    (h : Memory.wf m = true) : Memory.wf (Memory.write m a b) = true :=
  Sparse.wf_set _ _ _ _ _ ha h

theorem Memory.wf_writeLane (w : WordAddr) (l : Lanes) (d : Word) (m : List Host.Cell)
    (k : Nat) (hk : k < 4) (h : Memory.wf m = true) :
    Memory.wf (Memory.writeLane w l d m k) = true := by
  unfold Memory.writeLane
  split
  · exact Memory.wf_write _ _ _ (laneCell_lt w k hk) h
  · exact h

/-- A bus write keeps the canonical form of memory. -/
theorem Memory.wf_writeLanes (m : List Host.Cell) (w : WordAddr) (l : Lanes) (d : Word)
    (h : Memory.wf m = true) : Memory.wf (Memory.writeLanes m w l d) = true := by
  unfold Memory.writeLanes
  simp only [List.foldl]
  exact Memory.wf_writeLane _ _ _ _ _ (by omega) (Memory.wf_writeLane _ _ _ _ _ (by omega)
    (Memory.wf_writeLane _ _ _ _ _ (by omega) (Memory.wf_writeLane _ _ _ _ _ (by omega) h)))

/-- Retiring posted stores keeps the canonical form of memory. -/
theorem Memory.wf_foldl_apply (q : List PendingStore) (m : List Host.Cell)
    (h : Memory.wf m = true) : Memory.wf (q.foldl (Memory.apply) m) = true := by
  induction q generalizing m with
  | nil => exact h
  | cons p q ih => exact ih _ (Memory.wf_writeLanes _ _ _ _ h)

/-- The empty memory of `State.reset` is canonical. -/
theorem Memory.wf_nil : Memory.wf [] = true := rfl

/-- What one lane write does to a byte. -/
theorem Memory.read_writeLane (w : WordAddr) (l : Lanes) (d : Word) (m : List Host.Cell)
    (k a : Nat) :
    Memory.read (Memory.writeLane w l d m k) a =
      if l.getLsbD k = true ∧ laneCell w k = a then d.extractLsb' (8 * k) 8
      else Memory.read m a := by
  unfold Memory.writeLane
  by_cases h : l.getLsbD k = true
  · simp only [h, if_true, true_and]; exact Sparse.get_set _ _ _ _ _
  · simp [h]

/-- A byte outside the enabled lanes keeps its value through a bus write. -/
theorem Memory.read_writeLanes_other (m : List Host.Cell) (w : WordAddr) (l : Lanes)
    (d : Word) (a : Nat) (h : ∀ k, k < 4 → l.getLsbD k = true → a ≠ laneCell w k) :
    Memory.read (Memory.writeLanes m w l d) a = Memory.read m a := by
  unfold Memory.writeLanes
  simp only [List.foldl, Memory.read_writeLane]
  have h0 := h 0 (by omega); have h1 := h 1 (by omega)
  have h2 := h 2 (by omega); have h3 := h 3 (by omega)
  rw [if_neg, if_neg, if_neg, if_neg]
  · rintro ⟨x, y⟩; exact h0 x y.symm
  · rintro ⟨x, y⟩; exact h1 x y.symm
  · rintro ⟨x, y⟩; exact h2 x y.symm
  · rintro ⟨x, y⟩; exact h3 x y.symm

/-- The byte of an enabled lane after a bus write. -/
theorem Memory.read_writeLanes_lane (m : List Host.Cell) (w : WordAddr) (l : Lanes)
    (d : Word) (k : Nat) (hk : k < 4) (h : l.getLsbD k = true) :
    Memory.read (Memory.writeLanes m w l d) (laneCell w k) = d.extractLsb' (8 * k) 8 := by
  unfold Memory.writeLanes
  simp only [List.foldl, Memory.read_writeLane]
  have key : ∀ j, j < 4 → (laneCell w j = laneCell w k) → j = k := fun j hj he =>
    (laneCell_inj w w j k hj hk he).2
  by_cases h3 : 3 = k
  · subst h3; simp [h]
  by_cases h2 : 2 = k
  · subst h2
    rw [if_neg (fun c => h3 (key 3 (by omega) c.2)), if_pos ⟨h, rfl⟩]
  by_cases h1 : 1 = k
  · subst h1
    rw [if_neg (fun c => h3 (key 3 (by omega) c.2)), if_neg (fun c => h2 (key 2 (by omega) c.2)),
      if_pos ⟨h, rfl⟩]
  · have h0 : 0 = k := by omega
    subst h0
    rw [if_neg (fun c => h3 (key 3 (by omega) c.2)), if_neg (fun c => h2 (key 2 (by omega) c.2)),
      if_neg (fun c => h1 (key 1 (by omega) c.2)), if_pos ⟨h, rfl⟩]

/-! ## The write buffer -/

/-- Retiring a write changes nothing the CPU can read. -/
@[simp] theorem State.retireWrite_settledMemory (s : State) :
    s.retireWrite.settledMemory = s.settledMemory := by
  unfold State.retireWrite State.settledMemory
  split <;> simp_all

/-- Draining the write buffer changes nothing the CPU can read. -/
@[simp] theorem State.drain_settledMemory (s : State) : s.drain.settledMemory = s.settledMemory := rfl

/-- A posted store is the last one written. -/
@[simp] theorem State.post_settledMemory (s : State) (e : PendingStore) :
    (s.post e).settledMemory = Memory.apply s.settledMemory e := by
  unfold State.post
  split
  · have := State.retireWrite_settledMemory s
    unfold State.settledMemory at this ⊢
    simp only [List.foldl_append, List.foldl]
    rw [this]
  · simp [State.settledMemory]

/-- The stores that wait depend on the posted writes and on whether one is on the bus. -/
theorem State.waitingStores_congr {s t : State} (hw : t.writeBuffer = s.writeBuffer)
    (hb : t.seq.busBlocked = s.seq.busBlocked) : t.waitingStores = s.waitingStores := by
  unfold State.waitingStores; rw [hw, hb]

/-- At most as many stores wait as are posted. -/
theorem State.waitingStores_length (s : State) :
    s.waitingStores.length = s.writeBuffer.length - (if s.seq.busBlocked then 1 else 0) := by
  unfold State.waitingStores; split <;> simp

/-- A posted write that leaves takes at most one from the stores that wait. -/
theorem State.retireWrite_length (s : State) :
    s.retireWrite.writeBuffer.length = s.writeBuffer.length - 1 := by
  unfold State.retireWrite; split <;> simp_all

/-- A store enters the buffer: behind four that wait one leaves first (20_memory.md R120,
71_bus_interface.md R551). -/
theorem State.post_length (s : State) (e : PendingStore) :
    (s.post e).writeBuffer.length =
      (if s.bufferFull then s.writeBuffer.length - 1 else s.writeBuffer.length) + 1 := by
  unfold State.post
  split
  · simp [State.retireWrite_length]
  · simp

/-- Memory as it is once the pending stores are written depends on memory and the write buffer alone. -/
theorem State.settledMemory_congr {s t : State} (h2 : t.mem = s.mem)
    (h3 : t.writeBuffer = s.writeBuffer) : t.settledMemory = s.settledMemory := by
  unfold State.settledMemory; rw [h2, h3]

theorem State.memoryByte_congr {s t : State} (hm : t.mode = s.mode)
    (h : t.settledMemory = s.settledMemory) (a : Nat) : t.memoryByte a = s.memoryByte a := by
  unfold State.memoryByte; rw [h, hm]

end Sys2Proof.Machine
end

