-- ==== Sys2Proof/Laws/Ops.lean ====
section
/-! SUPPORT. What the shared operations do, one lemma each: register files, delivery of pending loads,
advancing, exception entry, deferred results, translation, and uncached access. -/

namespace Sys2Proof.Machine

/-! ## Register files -/

/-- Reading a general register after a write; r0 stays zero. -/
theorem State.gprValue_writeReg (s : State) (r q : Reg) (v : Word) :
    (s.writeReg r v).gprValue q = if q = r ∧ q ≠ 0 then v else s.gprValue q := by
  unfold State.gprValue State.writeReg
  by_cases hq : q = 0
  · rw [if_pos hq, if_neg (fun h => h.2 hq), if_pos hq]
  rw [if_neg hq, if_neg hq]
  by_cases hr : r = 0
  · rw [if_pos hr, if_neg (fun c => hq (c.1.trans hr))]
  rw [if_neg hr]
  by_cases h : q = r
  · subst h; rw [if_pos ⟨rfl, hq⟩]; simp only [Vector.getElem_set_self]
  · have hn : r.toNat ≠ q.toNat := fun e => h (BitVec.eq_of_toNat_eq e.symm)
    rw [if_neg (fun c => h c.1)]; simp only [Vector.getElem_set_ne _ _ hn]

/-- The register file decides the value of a register. -/
theorem State.gprValue_congr {s t : State} (h : t.gpr = s.gpr) (r : Reg) :
    t.gprValue r = s.gprValue r := by
  unfold State.gprValue; simp only [h]

/-- Reading an FGR after a write. -/
theorem State.fgrValue_writeFgr (s : State) (r q : Reg) (v : Word) :
    (s.writeFgr r v).fgrValue q = if q = r then v else s.fgrValue q := by
  unfold State.fgrValue State.writeFgr
  by_cases h : q = r
  · subst h; simp
  · have : r.toNat ≠ q.toNat := fun e => h (BitVec.eq_of_toNat_eq e.symm)
    simp [h, Vector.getElem_set_ne _ _ this]

/-- The FGR file decides the value of an FGR. -/
theorem State.fgrValue_congr {s t : State} (h : t.fgr = s.fgr) (r : Reg) :
    t.fgrValue r = s.fgrValue r := by
  unfold State.fgrValue; simp only [h]

/-- A general register read as an operand holds its value, or the pending one, in a delay slot. -/
theorem State.readReg_cases (s : State) (r : Reg) :
    s.readReg r = s.gprValue r ∨ s.seq.loadPending = some (r, s.readReg r) := by
  unfold State.readReg
  rcases h : s.seq.loadPending with _ | ⟨p, v⟩
  · left; rfl
  · by_cases hc : (decide (p = r) && r != 0) = true
    · simp only [if_pos hc]
      simp only [Bool.and_eq_true, decide_eq_true_eq] at hc
      split
      · right; rw [hc.1]
      · left; rfl
    · left; simp only [if_neg hc]

/-- With no load pending, an operand is the register's value. -/
theorem State.readReg_of_none {s : State} (h : s.seq.loadPending = none) (r : Reg) :
    s.readReg r = s.gprValue r := by
  unfold State.readReg; rw [h]

/-- r0 reads zero (10_state.md R21). -/
@[simp] theorem State.readReg_zero (s : State) : s.readReg 0#5 = 0#32 := by
  unfold State.readReg State.gprValue; split <;> simp

@[simp] theorem State.readMerged_zero (s : State) : s.readMerged 0#5 = 0#32 := by
  unfold State.readMerged State.gprValue; split <;> simp

/-! ## Delivery of pending loads -/

theorem State.gprValue_deliverLoad (s : State) (q : Reg) :
    s.deliverLoad.gprValue q = s.readMerged q := by
  unfold State.deliverLoad State.readMerged
  rcases h : s.seq.loadPending with _ | ⟨p, v⟩
  · rfl
  · simp only [State.gprValue_writeReg]
    by_cases h1 : q = p ∧ q ≠ 0
    · have hc : (decide (p = q) && q != 0) = true := by
        simp only [Bool.and_eq_true, decide_eq_true_eq]; exact ⟨h1.1.symm, bne_iff_ne.mpr h1.2⟩
      rw [if_pos h1, if_pos hc]
    · have hc : ¬ (decide (p = q) && q != 0) = true := by
        simp only [Bool.and_eq_true, decide_eq_true_eq]
        exact fun c => h1 ⟨c.1.symm, bne_iff_ne.mp c.2⟩
      rw [if_neg h1, if_neg hc]

theorem State.fgrValue_deliverFpLoad (s : State) (q : Reg) :
    s.deliverFpLoad.fgrValue q = s.deliveredFgr q := by
  unfold State.deliverFpLoad State.deliveredFgr
  rcases h : s.seq.fpLoadPending with _ | ⟨p, v⟩
  · rfl
  · simp only [State.fgrValue_writeFgr, eq_comm]

@[simp] theorem State.gprValue_commitLoads (s : State) (q : Reg) :
    s.commitLoads.gprValue q = s.readMerged q := by
  rw [← State.gprValue_deliverLoad]; exact State.gprValue_congr (by simp [State.commitLoads]) q

@[simp] theorem State.fgrValue_commitLoads (s : State) (q : Reg) :
    s.commitLoads.fgrValue q = s.deliveredFgr q := by
  rw [← State.fgrValue_deliverFpLoad]
  refine State.fgrValue_congr ?_ q
  unfold State.commitLoads State.deliverFpLoad
  simp only [State.withSeq_fgr, State.deliverLoad_seq]
  split <;> simp [State.writeFgr]

/-! ## Advancing (42_jump_branch.md R240) -/

@[simp] theorem State.retire_eq (s : State) : s.retire = s.advance false none := rfl

@[simp] theorem State.advance_gprValue (s : State) (b : Bool) (t : Option Word) (q : Reg) :
    (s.advance b t).gprValue q = s.readMerged q := by
  rw [← State.gprValue_commitLoads]; exact State.gprValue_congr (by simp [State.advance]) q

@[simp] theorem State.advance_fgrValue (s : State) (b : Bool) (t : Option Word) (q : Reg) :
    (s.advance b t).fgrValue q = s.deliveredFgr q := by
  rw [← State.fgrValue_commitLoads]; exact State.fgrValue_congr (by simp [State.advance]) q

@[simp] theorem State.advance_nextPc_none (s : State) (b : Bool) :
    (s.advance b none).nextPc = s.nextPc + 4 := rfl

@[simp] theorem State.advance_nextPc_some (s : State) (b : Bool) (a : Word) :
    (s.advance b (some a)).nextPc = a := rfl

/-- The sequencing state after an instruction completes: nothing pending, every window one shorter. -/
@[simp] theorem State.advance_seq (s : State) (b : Bool) (t : Option Word) :
    (s.advance b t).seq = { s.seq with
      loadPending := none, fpLoadPending := none,
      condLatch0 := s.env.brCond0, condLatch2 := s.env.brCond2, condLatch3 := s.env.brCond3,
      condPending := none, cp0WriteWindow := false, cacheCtlWindow := false,
      draws := s.seq.draws + 1, inDelaySlot := b, configWindow := s.seq.configWindow - 1 } := by
  simp [State.advance, State.turnOver]

/-! ## Exception entry (60_exceptions.md R420) -/

@[simp] theorem State.takeException_gprValue (s : State) (x : Exc) (q : Reg) :
    (s.takeException x).gprValue q = s.readMerged q := by
  rw [← State.gprValue_commitLoads]; exact State.gprValue_congr (by simp [State.takeException]) q

@[simp] theorem State.takeException_fgrValue (s : State) (x : Exc) (q : Reg) :
    (s.takeException x).fgrValue q = s.deliveredFgr q := by
  rw [← State.fgrValue_commitLoads]; exact State.fgrValue_congr (by simp [State.takeException]) q

/-- The sequencing state after an exception: nothing pending, no delay slot. -/
@[simp] theorem State.takeException_seq (s : State) (x : Exc) :
    (s.takeException x).seq = { s.seq with
      loadPending := none, fpLoadPending := none,
      condLatch0 := s.env.brCond0, condLatch2 := s.env.brCond2, condLatch3 := s.env.brCond3,
      condPending := none, cp0WriteWindow := false, cacheCtlWindow := false,
      draws := s.seq.draws + 1, inDelaySlot := false } := by
  simp [State.takeException, State.turnOver]

/-- CP0 after an exception. -/
@[simp] theorem State.takeException_cp0 (s : State) (x : Exc) :
    (s.takeException x).cp0 = { s.cp0 with
      random := randomDraw s.seq.draws
      epc := if s.seq.inDelaySlot then s.pc - 4 else s.pc
      cause := x.cause s.seq.inDelaySlot s.seq.draws s.cp0.cause
      badVAddr := x.badVAddr s.cp0.badVAddr
      context := x.context s.seq.draws s.cp0.context
      entryHi := x.entryHi s.chip.hasTlb s.seq.draws s.cp0.entryHi
      status := s.cp0.status.push } := by
  simp [State.takeException, State.turnOver]

/-- Random is drawn from 8..63 (10_state.md R33). -/
theorem randomDraw_ge (n : Nat) : 8 ≤ (randomDraw n).toNat := by
  unfold randomDraw; rw [BitVec.toNat_ofNat]; omega

/-! ## Deferred results -/

theorem State.deferLoad_seq (s : State) (r : Reg) (v : Word) :
    (s.deferLoad r v).seq =
      if r = 0 then s.seq else { s.seq with loadPending := some (r, v) } := by
  unfold State.deferLoad; split <;> rfl

@[simp] theorem State.deferLoad_gprValue (s : State) (r q : Reg) (v : Word) :
    (s.deferLoad r v).gprValue q = s.gprValue q := State.gprValue_congr (by simp) q

@[simp] theorem State.deferLoad_fgrValue (s : State) (r q : Reg) (v : Word) :
    (s.deferLoad r v).fgrValue q = s.fgrValue q := State.fgrValue_congr (by simp) q

/-! ## Memory under the shared operations -/

@[simp] theorem State.advance_settledMemory (s : State) (b : Bool) (t : Option Word) :
    (s.advance b t).settledMemory = s.settledMemory :=
  State.settledMemory_congr (by simp) (by simp)

@[simp] theorem State.takeException_settledMemory (s : State) (x : Exc) :
    (s.takeException x).settledMemory = s.settledMemory :=
  State.settledMemory_congr (by simp) (by simp)

@[simp] theorem State.writeReg_settledMemory (s : State) (r : Reg) (v : Word) :
    (s.writeReg r v).settledMemory = s.settledMemory :=
  State.settledMemory_congr (by simp) (by simp)

@[simp] theorem State.writeFgr_settledMemory (s : State) (r : Reg) (v : Word) :
    (s.writeFgr r v).settledMemory = s.settledMemory :=
  State.settledMemory_congr (by simp) (by simp)

@[simp] theorem State.deferLoad_settledMemory (s : State) (r : Reg) (v : Word) :
    (s.deferLoad r v).settledMemory = s.settledMemory :=
  State.settledMemory_congr (by simp) (by simp)

/-! ## Translation (20_memory.md R100 to R105) -/

/-- kseg0 is the low 512 megabytes, cached (20_memory.md R102). -/
theorem State.translate_kseg0 (s : State) (va : Word) (k : AccessKind)
    (h : va.extractLsb' 29 3 = 4) : s.translate va k = .ok (va &&& 0x1fffffff, true) s := by
  unfold State.translate; rw [if_pos h]

/-- kseg1 is the low 512 megabytes, uncached (20_memory.md R103). -/
theorem State.translate_kseg1 (s : State) (va : Word) (k : AccessKind)
    (h : va.extractLsb' 29 3 = 5) : s.translate va k = .ok (va &&& 0x1fffffff, false) s := by
  unfold State.translate; rw [if_neg (by rw [h]; decide), if_pos h]

/-- An aligned Kernel-mode access passes steps (1) and (2) (20_memory.md R98, R101). -/
theorem State.address_kernel (s : State) (va : Word) (k : AccessKind)
    (h : s.cp0.status.kuc = false) : s.address va k true = s.translate va k := by
  unfold State.address; simp [h]

/-- The TLB entries that map a page are those whose VPN and process agree (20_memory.md R108). -/
theorem State.mem_tlbMatches (s : State) (vpn : BitVec 20) (i : BitVec 6) :
    i ∈ s.tlbMatches vpn ↔ (s.tlbEntry i).maps vpn s.cp0.entryHi.pid = true := by
  unfold State.tlbMatches
  rw [List.mem_filter, List.mem_map]
  constructor
  · rintro ⟨-, h⟩; exact h
  · intro h
    exact ⟨⟨i.toNat, List.mem_range.mpr i.isLt, by simp⟩, h⟩

/-! ## Uncached access (20_memory.md R121, R125) -/

/-- An uncached load in normal operation, answered by memory, reads the word as the CPU's own stores
leave it. -/
theorem State.loadWord_uncached (s : State) (w : WordAddr) (hi : s.cp0.status.isc = false)
    (hb : s.seq.busBlocked = false) (hr : s.env.dataReply = .memory) :
    s.loadWord w false = .ok (s.memoryWord w) s.drain := by
  unfold State.loadWord State.readUncached
  simp only [hi, hr, hb]
  rfl

/-- A store goes to the write buffer, but for a full one behind a write never acknowledged. -/
theorem State.postStore_eq (s : State) (e : PendingStore) (hb : s.seq.busBlocked = false) :
    s.postStore e = .ok () (s.post e) := by
  unfold State.postStore; rw [hb]; rfl

/-- A store that answers is the one posted. -/
theorem State.postStore_ok {s t : State} {e : PendingStore} (h : s.postStore e = .ok () t) :
    t = s.post e := by
  unfold State.postStore at h
  split at h
  · cases h
  · injection h with _ h; exact h.symm

/-- An uncached store in normal operation is posted. -/
theorem State.storeWord_uncached (s : State) (w : WordAddr) (l : Lanes) (v : Word)
    (hi : s.cp0.status.isc = false) (hb : s.seq.busBlocked = false) :
    s.storeWord w false l v = .ok () (s.post { addr := w, lanes := l, data := v }) := by
  unfold State.storeWord State.postedStore
  simp only [hi, Bool.false_and, if_false, Bool.false_eq_true]
  exact State.postStore_eq s _ hb

end Sys2Proof.Machine
end

