-- ==== Sys2Proof/Laws/Shapes.lean ====
section
/-! SUPPORT. Which shape of outcome each shared ending of an instruction has: a register result, HI and
LO, a jump or branch, a deferred result, an exception, an FPA trap. -/

namespace Sys2Proof.Machine

/-- Completing keeps the FGRs, a pending one delivered. -/
theorem keepsFpa_advance (s : State) (b : Bool) (t : Option Word) : KeepsFpa s (s.advance b t) :=
  ⟨by simp, by simp, fun r => by simp⟩

theorem keepsSystem_advance (s : State) (b : Bool) (t : Option Word) :
    KeepsSystem s (s.advance b t) := ⟨by simp, by simp, by simp, by simp⟩

theorem keepsMemory_advance (s : State) (b : Bool) (t : Option Word) :
    KeepsMemory s (s.advance b t) := fun a => State.memoryByte_congr (by simp) (by simp) a

theorem keepsCaches_advance (s : State) (b : Bool) (t : Option Word) :
    KeepsCaches s (s.advance b t) := ⟨by simp, by simp⟩

/-- `s.result r v` puts `v` in `r` and changes nothing else (41_computational.md R190). -/
theorem State.result_shape (s : State) (r : Reg) (v : Word) : RegisterResult s r v (s.result r v) := by
  refine ⟨_, rfl, ?_, ⟨by simp, by simp⟩, ⟨by simp, by simp, ?_⟩, ⟨by simp, by simp, by simp, by simp⟩, ?_,
    ⟨by simp, by simp⟩, ⟨by simp, by simp, by simp⟩, by simp [NoPendingLoad],
    by simp [NoPendingFpLoad]⟩
  · intro q; rw [State.gprValue_writeReg]; simp
  · intro q
    rw [State.fgrValue_congr (State.writeReg_fgr _ _ _)]; simp
  · intro a; exact State.memoryByte_congr (by simp) (by simp) a

/-- `s.setHiLo` writes HI and LO and changes nothing else (41_computational.md R225). -/
theorem State.setHiLo_shape (s : State) (hi lo : Word) : HiLoResult s hi lo (s.setHiLo hi lo) := by
  refine ⟨_, rfl, by simp, by simp, ?_, ⟨by simp, by simp, ?_⟩, ⟨by simp, by simp, by simp, by simp⟩, ?_,
    ⟨by simp, by simp⟩, ⟨by simp, by simp, by simp⟩, by simp [NoPendingLoad],
    by simp [NoPendingFpLoad]⟩
  · intro q; rw [← State.advance_gprValue s false none]; exact State.gprValue_congr (by simp) q
  · intro q; rw [← State.advance_fgrValue s false none]; exact State.fgrValue_congr (by simp) q
  · intro a
    exact State.memoryByte_congr (by simp) ((State.settledMemory_congr (by simp) (by simp)).trans
      (State.advance_settledMemory s false none)) a

/-- A jump or branch outside a delay slot (42_jump_branch.md R240). -/
theorem State.transfer_shape (s : State) (target : Option Word) (h : s.seq.inDelaySlot = false) :
    TransferResult s target s.readMerged (s.transfer target) := by
  unfold State.transfer; rw [h]
  exact ⟨_, rfl, by simp, by cases target <;> rfl, by simp, fun r => by simp, ⟨by simp, by simp⟩,
    keepsFpa_advance .., keepsSystem_advance .., keepsMemory_advance _ _ _, keepsCaches_advance ..,
    by simp [NoPendingLoad], by simp [NoPendingFpLoad]⟩

/-- A jump or branch that links, outside a delay slot (42_jump_branch.md R240, R255). -/
theorem State.transferLink_shape (s : State) (link : Reg) (target : Option Word)
    (h : s.seq.inDelaySlot = false) :
    TransferResult s target (fun r => if r = link ∧ r ≠ 0 then s.pc + 8 else s.readMerged r)
      (s.transferLink link target) := by
  unfold State.transferLink; rw [h]
  refine ⟨_, rfl, by simp, ?_, by simp, fun r => ?_, ⟨by simp, by simp⟩, ⟨by simp, by simp, ?_⟩,
    ⟨by simp, by simp, by simp, by simp⟩, ?_, ⟨by simp, by simp⟩,
    by simp [NoPendingLoad], by simp [NoPendingFpLoad]⟩
  · cases target <;> simp
  · rw [State.gprValue_writeReg]; simp [linkAddress]
  · intro q
    rw [State.fgrValue_congr (State.writeReg_fgr _ _ _)]; simp
  · intro a; exact State.memoryByte_congr (by simp) (by simp) a

/-- A deferred result (40_load_store.md R171, R185). -/
theorem State.deferLoad_shape (s : State) (r : Reg) (v : Word) :
    DeferredResult s r v (.next (s.retire.deferLoad r v)) := by
  refine ⟨_, rfl, ?_, fun q => by simp, ⟨by simp, by simp⟩, ⟨by simp, by simp, fun q => by simp⟩,
    ⟨by simp, by simp, by simp, by simp⟩, fun a => State.memoryByte_congr (by simp) (by simp) a,
    ⟨by simp, by simp⟩, ⟨by simp, by simp, ?_⟩, ?_⟩
  · rw [State.deferLoad_seq]; split <;> simp
  · rw [State.deferLoad_seq]; split <;> simp
  · unfold NoPendingFpLoad; rw [State.deferLoad_seq]; split <;> simp

/-- A deferred FGR result (46_fpa_instructions.md R367 a). -/
theorem State.deferFpLoad_shape (s : State) (r : Reg) (v : Word) :
    DeferredFpResult s r v (.next (s.retire.deferFpLoad r v)) := by
  refine ⟨_, rfl, rfl, ?_, ⟨by simp, by simp⟩, ⟨by simp, by simp, ?_⟩, ⟨by simp, by simp, by simp, by simp⟩,
    ?_, ⟨by simp, by simp⟩, ⟨by simp, by simp, rfl⟩, rfl⟩
  · intro q; rw [← State.advance_gprValue s false none]; exact State.gprValue_congr (by simp) q
  · intro q; rw [← State.advance_fgrValue s false none]; exact State.fgrValue_congr (by simp) q
  · intro a
    exact State.memoryByte_congr (by simp) ((State.settledMemory_congr (by simp) (by simp)).trans
      (State.advance_settledMemory s false none)) a

/-- Taking an exception (60_exceptions.md R420 to R422). -/
theorem State.raise_shape (s : State) (x : Exc) : EntersException s x (s.raise x) := by
  refine ⟨_, rfl, rfl, rfl, by simp, by simp, by simp [Exc.cause], by simp [Exc.cause], ?_,
    by simp [Exc.cause], by simp [StatusReg.push], by simp, by simp, by simp, ?_, ?_, by simp,
    fun r => by simp, ⟨by simp, by simp⟩, fun r => by simp,
    fun a => State.memoryByte_congr (by simp) (by simp) a, ⟨by simp, by simp⟩, by simp [NoPendingLoad],
    by simp [NoPendingFpLoad]⟩
  · intro z hz; subst hz; simp [Exc.cause]
  · cases x <;> simp [Exc.context]
  · cases x <;> simp [Exc.entryHi]
    all_goals split <;> rfl

end Sys2Proof.Machine
end

