-- ==== Sys2Proof/Laws/Access.lean ====
section
/-! SUPPORT. What a data access may change, alignment and lanes, and what the caches answer after a fill or
an invalidation. -/

namespace Sys2Proof.Machine

/-! ## What an access keeps -/

theorem accessKeeps_refl (s : State) : AccessKeeps s s :=
  ⟨rfl, rfl, rfl, rfl, rfl, rfl, rfl, rfl, rfl, rfl, rfl, rfl, rfl⟩

theorem accessKeeps_trans {s t u : State} (h : AccessKeeps s t) (g : AccessKeeps t u) :
    AccessKeeps s u := by
  obtain ⟨a1, a2, a3, a4, a5, a6, a7, a8, a9, a10, a11, a12, a13⟩ := h
  obtain ⟨b1, b2, b3, b4, b5, b6, b7, b8, b9, b10, b11, b12, b13⟩ := g
  refine ⟨b1.trans a1, b2.trans a2, b3.trans a3, b4.trans a4, b5.trans a5, b6.trans a6, b7.trans a7,
    b8.trans a8, b9.trans a9, b10.trans a10, b11.trans a11,
    b12.trans a12, ?_⟩
  rw [b13, a13]

theorem accessKeeps_drain (s : State) : AccessKeeps s s.drain := accessKeeps_refl s

theorem accessKeeps_recordParity (s : State) (l : Lookup) : AccessKeeps s (s.recordParity l) :=
  ⟨rfl, rfl, rfl, rfl, rfl, rfl, rfl, rfl, rfl, rfl, rfl, rfl, rfl⟩

theorem accessKeeps_fillWord (s : State) (d : CacheSide) (w : WordAddr) (v : Word) (p : Bool) :
    AccessKeeps s (s.fillWord d w v p) :=
  ⟨by simp, by simp, by simp, by simp, by simp, by simp, by simp, by simp, by simp, by simp, by simp,
    by simp, by simp⟩

theorem accessKeeps_invalidateWord (s : State) (d : CacheSide) (w : WordAddr) (p : Bool) :
    AccessKeeps s (s.invalidateWord d w p) :=
  ⟨by simp, by simp, by simp, by simp, by simp, by simp, by simp, by simp, by simp, by simp, by simp,
    by simp, by simp⟩

theorem accessKeeps_post (s : State) (e : PendingStore) : AccessKeeps s (s.post e) :=
  ⟨by simp, by simp, by simp, by simp, by simp, by simp, by simp, by simp, by simp, by simp, by simp,
    by simp, by simp⟩

theorem accessKeeps_foldl {α : Type} (f : State → α → State) (hf : ∀ s a, AccessKeeps s (f s a))
    (l : List α) (s : State) : AccessKeeps s (l.foldl f s) := by
  induction l generalizing s with
  | nil => exact accessKeeps_refl s
  | cons a l ih => exact accessKeeps_trans (hf s a) (ih _)

@[simp] theorem State.fillWord_settledMemory (s : State) (d : CacheSide) (w : WordAddr) (v : Word)
    (p : Bool) : (s.fillWord d w v p).settledMemory = s.settledMemory :=
  State.settledMemory_congr (by simp) (by simp)

@[simp] theorem State.invalidateWord_settledMemory (s : State) (d : CacheSide) (w : WordAddr)
    (p : Bool) : (s.invalidateWord d w p).settledMemory = s.settledMemory :=
  State.settledMemory_congr (by simp) (by simp)

@[simp] theorem State.recordParity_settledMemory (s : State) (l : Lookup) :
    (s.recordParity l).settledMemory = s.settledMemory :=
  State.settledMemory_congr (by simp) (by simp)

theorem settledMemory_foldl {α : Type} (f : State → α → State)
    (hf : ∀ s a, (f s a).settledMemory = s.settledMemory) (l : List α) (s : State) :
    (l.foldl f s).settledMemory = s.settledMemory := by
  induction l generalizing s with
  | nil => rfl
  | cons a l ih => exact (ih _).trans (hf s a)

@[simp] theorem State.refill_settledMemory (s : State) (d : CacheSide) (r : BusReply)
    (ws : List WordAddr) : (s.refill d r ws).settledMemory = s.settledMemory :=
  settledMemory_foldl _ (fun _ _ => by simp) _ _

theorem accessKeeps_refill (s : State) (d : CacheSide) (r : BusReply) (ws : List WordAddr) :
    AccessKeeps s (s.refill d r ws) :=
  accessKeeps_foldl _ (fun _ _ => accessKeeps_fillWord ..) _ _

/-- Translation that gives an address changes at most Status.TS (20_memory.md R109, R111). -/
theorem State.translate_keeps {s t : State} {va : Word} {k : AccessKind} {p : Word × Bool}
    (h : s.translate va k = .ok p t) : AccessKeeps s t ∧ t.settledMemory = s.settledMemory := by
  have key : ∀ {q : Word × Bool}, Access.ok q s = Access.ok p t →
      AccessKeeps s t ∧ t.settledMemory = s.settledMemory := by
    intro q e; injection e with _ e2; subst e2; exact ⟨accessKeeps_refl s, rfl⟩
  unfold State.translate at h
  split at h
  · exact key h
  split at h
  · exact key h
  split at h
  · unfold State.translateMapped at h
    split at h
    · cases h
    · split at h
      · cases h
      · unfold State.useTlbEntry at h
        split at h
        · cases h
        · split at h
          · cases h
          · exact key h
      · injection h with _ h2; subst h2
        exact ⟨⟨rfl, rfl, rfl, rfl, rfl, rfl, rfl, rfl, rfl, rfl, rfl, rfl, rfl⟩, rfl⟩
  split at h
  · exact key h
  · exact key h

theorem State.address_keeps {s t : State} {va : Word} {k : AccessKind} {b : Bool} {p : Word × Bool}
    (h : s.address va k b = .ok p t) : AccessKeeps s t ∧ t.settledMemory = s.settledMemory := by
  unfold State.address at h
  split at h
  · cases h
  split at h
  · cases h
  · exact State.translate_keeps h

/-- An exception of translation leaves the state as it is (20_memory.md R98). -/
theorem State.address_exc {s t : State} {va : Word} {k : AccessKind} {b : Bool} {x : Exc}
    (h : s.address va k b = .exc x t) : t = s := by
  have key : ∀ {y : Exc}, (Access.exc y s : Access (Word × Bool)) = .exc x t → t = s := by
    intro y e; injection e with _ e2; exact e2.symm
  unfold State.address at h
  split at h
  · exact key h
  split at h
  · exact key h
  · unfold State.translate at h
    split at h
    · cases h
    split at h
    · cases h
    split at h
    · unfold State.translateMapped at h
      split at h
      · cases h
      · split at h
        · exact key h
        · unfold State.useTlbEntry at h
          split at h
          · exact key h
          · split at h
            · exact key h
            · cases h
        · cases h
    split at h <;> cases h

/-- A load that answers changes caches, the write buffer and Status PE and CM at most
(20_memory.md R121, R125, R128). -/
theorem State.loadWord_keeps {s t : State} {w : WordAddr} {c : Bool} {v : Word}
    (h : s.loadWord w c = .ok v t) : AccessKeeps s t ∧ t.settledMemory = s.settledMemory := by
  unfold State.loadWord at h
  split at h
  · unfold State.loadIsolated at h
    injection h with _ h2; subst h2
    exact ⟨⟨rfl, rfl, rfl, rfl, rfl, rfl, rfl, rfl, rfl, rfl, rfl, rfl, rfl⟩, rfl⟩
  · split at h
    · cases h
    · unfold State.loadCached at h
      simp only at h
      split at h
      · injection h with _ h2; subst h2; exact ⟨accessKeeps_refl s, rfl⟩
      · unfold State.readMiss at h
        split at h
        · cases h
        split at h
        · cases h
        · cases h
        · injection h with _ h2; subst h2
          exact ⟨accessKeeps_trans (accessKeeps_recordParity s _)
            (accessKeeps_trans (accessKeeps_drain _) (accessKeeps_refill ..)), by simp⟩
        · injection h with _ h2; subst h2
          exact ⟨accessKeeps_trans (accessKeeps_recordParity s _)
            (accessKeeps_trans (accessKeeps_drain _) (accessKeeps_refill ..)), by simp⟩
  · cases h
  · unfold State.readUncached at h
    split at h
    · cases h
    split at h
    · cases h
    · cases h
    · injection h with _ h2; subst h2; exact ⟨accessKeeps_drain s, rfl⟩
    · injection h with _ h2; subst h2; exact ⟨accessKeeps_drain s, rfl⟩

/-- A refill that ended in a bus error changes caches at most (71_bus_interface.md R546). -/
theorem State.refillFailed_keeps (s : State) (d : CacheSide) (u : FreeUse) (ws : List WordAddr) :
    AccessKeeps s (s.refillFailed d u ws) ∧
      (s.refillFailed d u ws).settledMemory = s.settledMemory := by
  unfold State.refillFailed
  split
  · exact ⟨accessKeeps_foldl _ (fun _ _ => accessKeeps_invalidateWord ..) _ _,
      settledMemory_foldl _ (fun _ _ => by simp) _ _⟩
  · exact ⟨accessKeeps_refl _, rfl⟩

/-- The only exception of a word access is DBE, after what the access did (20_memory.md R96). -/
theorem State.loadWord_exc {s u : State} {w : WordAddr} {c : Bool} {x : Exc}
    (h : s.loadWord w c = .exc x u) :
    x = .dbe ∧ AccessKeeps s u ∧ u.settledMemory = s.settledMemory := by
  unfold State.loadWord at h
  split at h
  · cases h
  · split at h
    · cases h
    · unfold State.loadCached at h
      simp only at h
      split at h
      · cases h
      · unfold State.readMiss at h
        split at h
        · cases h
        split at h
        · cases h
        · injection h with h1 h2; subst h2
          obtain ⟨a, b⟩ := State.refillFailed_keeps (s.recordParity (s.dataLookup w)).drain
            (s.recordParity (s.dataLookup w)).dataSide .dataErrorLine
            ((s.recordParity (s.dataLookup w)).dataRefillWords w)
          exact ⟨h1.symm, accessKeeps_trans (accessKeeps_recordParity s _)
            (accessKeeps_trans (accessKeeps_drain _) a), b.trans (by simp)⟩
        · cases h
        · cases h
  · cases h
  · unfold State.readUncached at h
    split at h
    · cases h
    split at h
    · cases h
    · injection h with h1 h2; subst h2; exact ⟨h1.symm, accessKeeps_drain s, rfl⟩
    · cases h
    · cases h

/-- A word access that never ends changed caches, the write buffer and Status.PE at most
(71_bus_interface.md R545, R548). -/
theorem State.loadWord_never {s u : State} {w : WordAddr} {c : Bool} (h : s.loadWord w c = .never u) :
    AccessKeeps s u ∧ u.settledMemory = s.settledMemory := by
  unfold State.loadWord at h
  split at h
  · cases h
  · split at h
    · cases h
    · unfold State.loadCached at h
      simp only at h
      split at h
      · cases h
      · unfold State.readMiss at h
        split at h
        · injection h with h; subst h; exact ⟨accessKeeps_recordParity s _, by simp⟩
        split at h
        · injection h with h; subst h
          exact ⟨accessKeeps_trans (accessKeeps_recordParity s _) (accessKeeps_drain _), by simp⟩
        all_goals cases h
  · cases h
  · unfold State.readUncached at h
    split at h
    · injection h with h; subst h; exact ⟨accessKeeps_refl _, rfl⟩
    split at h
    · injection h with h; subst h; exact ⟨accessKeeps_drain _, rfl⟩
    all_goals cases h

/-- A store that answers changes caches, memory, the write buffer and Status.PE at most
(20_memory.md R125, R128). -/
theorem State.storeWord_keeps {s t : State} {w : WordAddr} {c : Bool} {l : Lanes} {v : Word}
    (h : s.storeWord w c l v = .ok () t) : AccessKeeps s t := by
  unfold State.storeWord at h
  split at h
  · injection h with _ h2; subst h2
    unfold State.storeIsolated
    split
    · exact accessKeeps_fillWord ..
    · exact accessKeeps_invalidateWord ..
  · split at h
    · cases h
    · rw [State.postStore_ok h]
      refine accessKeeps_trans ?_ (accessKeeps_post _ _)
      unfold State.storeCache
      simp only
      split
      · exact accessKeeps_fillWord ..
      · split
        · exact accessKeeps_fillWord ..
        · exact accessKeeps_recordParity ..
  · cases h
  · rw [State.postStore_ok h]; exact accessKeeps_post ..

/-! ## Alignment and lanes -/

theorem Width.aligned_word_iff (va : Word) : Width.word.aligned va = true ↔ va.toNat % 4 = 0 := by
  unfold Width.aligned; rw [beq_iff_eq]
  constructor
  · intro h; have := congrArg BitVec.toNat h; simpa using this
  · intro h; apply BitVec.eq_of_toNat_eq; simpa using h

theorem Width.aligned_half_iff (va : Word) : Width.half.aligned va = true ↔ va.toNat % 2 = 0 := by
  unfold Width.aligned
  simp only [Bool.not_eq_true', BitVec.getLsbD, Nat.testBit_zero]
  simp

theorem byteLane_lt (e : Bool) (va : Word) : byteLane e va < 4 := by
  unfold byteLane; have := (va.extractLsb' 0 2).isLt; split <;> omega

/-- The low byte of a word shifted right by whole bytes is that byte. -/
theorem shiftRight_byte (w : Word) (n : Nat) (hn : n < 4) :
    (w >>> (8 * n)) &&& 255#32 = (w.extractLsb' (8 * n) 8).setWidth 32 := by
  apply BitVec.eq_of_getLsbD_eq; intro i hi
  interval_cases n <;> interval_cases i <;> simp

/-! ## Cache contents (20_memory.md R124, R125) -/

theorem tagIndex_lt (d : CacheSide) (ac : Bool) (w : WordAddr) : tagIndex d ac w < tagCount d ac := by
  unfold tagIndex tagCount
  cases d <;> cases ac <;> simp only [if_true, if_false, Bool.false_eq_true] <;>
    exact (BitVec.isLt _)

/-- Looking a key up in a filtered list whose filter keeps what the key finds. -/
theorem Sparse.lookup_filter {β : Type} (l : List (Nat × β)) (p : Nat × β → Bool) (a : Nat) (v : β)
    (h : Sparse.lookup l a = some v) (hp : p (a, v) = true) :
    Sparse.lookup (l.filter p) a = some v := by
  induction l with
  | nil => cases h
  | cons e t ih =>
    obtain ⟨k, w⟩ := e
    simp only [Sparse.lookup] at h
    by_cases hk : k = a
    · subst hk
      simp only [if_true, Option.some.injEq] at h
      subst h
      simp [List.filter, hp, Sparse.lookup]
    · rw [if_neg hk] at h
      simp only [List.filter]
      split
      · simp only [Sparse.lookup, if_neg hk]; exact ih h
      · exact ih h

/-- The tag at an index after it is written with a valid tag. -/
theorem Cache.tagAt_setTag (d : CacheSide) (ac : Bool) (c : Cache) (i : Nat) (t : CacheTag)
    (hi : i < tagCount d ac) (ht : t ≠ invalidTag) : (c.setTag d ac i t).tagAt i = some t := by
  have hne : (t == invalidTag) = false := by simp [ht]
  unfold Cache.setTag
  split
  · rename_i hu
    simp only
    have hl : Sparse.lookup (Sparse.insert i t (Sparse.erase i c.tags)) i = some t := by
      rw [Sparse.lookup_insert, if_pos rfl]
    split
    · have hf := Sparse.lookup_filter _
        (fun e => decide (e.1 < tagCount d ac) && !(e.2 == invalidTag)) i t hl (by simp [hi, hne])
      unfold Cache.tagAt
      simp only [hf]
    · unfold Cache.tagAt; simp only [hl]
  · rename_i hu
    unfold Cache.tagAt Sparse.set
    simp only [if_neg ht, Sparse.lookup_insert, if_true]

/-- Writing a data word leaves the tags. -/
@[simp] theorem Cache.tagAt_setData (c : Cache) (i j : Nat) (v : CacheData) :
    (c.setData i v).tagAt j = c.tagAt j := by
  unfold Cache.setData
  by_cases h : c.dataUndefined = true
  · rw [if_pos h]; rfl
  · rw [if_neg h]; rfl

/-- The data word at an index after it is written. -/
theorem Cache.dataAt_setData (c : Cache) (n i : Nat) (v : CacheData) :
    (c.setData i v).dataAt n i = v := by
  unfold Cache.setData
  split
  · rename_i h; unfold Cache.dataAt; simp only [Sparse.lookup_insert, if_true]
  · rename_i h
    unfold Cache.dataAt Sparse.set
    by_cases hv : v = emptyData
    · simp only [if_pos hv, Sparse.lookup_erase, if_true, h]; simp [hv]
    · simp only [if_neg hv, Sparse.lookup_insert, if_true]

/-- A word just written to the cache reads as written and hits; written under Status.PZ it may show bad
parity instead, and then misses (20_memory.md R125, R132). -/
theorem Cache.lookup_fill (d : CacheSide) (ac : Bool) (c : Cache) (w : WordAddr) (v : Word) (p : Bool)
    (n : Nat) (u : FreeUse) : (c.fill d ac w v p).lookup d ac w n u =
      { hit := !(p && Config.freeBit u n), word := v, parityError := p && Config.freeBit u n } := by
  unfold Cache.fill Cache.lookup
  simp only [Cache.tagAt_setData, Cache.dataAt_setData]
  rw [Cache.tagAt_setTag _ _ _ _ _ (tagIndex_lt ..) (by simp [invalidTag])]
  simp

/-- Bad parity makes an access miss (20_memory.md R132). -/
theorem Cache.lookup_parity (d : CacheSide) (ac : Bool) (c : Cache) (w : WordAddr) (n : Nat)
    (u : FreeUse) :
    ¬ ((c.lookup d ac w n u).hit = true ∧ (c.lookup d ac w n u).parityError = true) := by
  unfold Cache.lookup
  rintro ⟨h, g⟩
  split at h
  · rename_i e; rw [e] at g; cases g
  · rename_i e
    rw [e] at g
    simp only at h g
    rw [g, Bool.not_true, Bool.and_false] at h
    cases h

/-! ## A refilled block (20_memory.md R126) -/

/-- Writing a tag leaves the data words. -/
@[simp] theorem Cache.dataAt_setTag (d : CacheSide) (ac : Bool) (c : Cache) (i n j : Nat)
    (t : CacheTag) : (c.setTag d ac i t).dataAt n j = c.dataAt n j := by
  unfold Cache.setTag
  split
  · simp only; split <;> rfl
  · rfl

/-- Setting a key leaves what is listed at the others. -/
theorem Sparse.lookup_set_ne {β : Type} [DecidableEq β] (d : β) (l : List (Nat × β)) (a b : Nat) (v : β)
    (h : a ≠ b) : Sparse.lookup (Sparse.set d l a v) b = Sparse.lookup l b := by
  unfold Sparse.set
  split
  · rw [Sparse.lookup_erase, if_neg h]
  · rw [Sparse.lookup_insert, if_neg h]

/-- Writing a data word leaves the others. -/
theorem Cache.dataAt_setData_ne (c : Cache) (n i j : Nat) (v : CacheData) (h : i ≠ j) :
    (c.setData i v).dataAt n j = c.dataAt n j := by
  unfold Cache.setData
  split <;> unfold Cache.dataAt
  · simp only [Sparse.lookup_insert, if_neg h]
  · simp only [Sparse.lookup_set_ne _ _ _ _ _ h]

/-- With no tag undefined, writing a tag leaves the others. -/
theorem Cache.tagAt_setTag_ne (d : CacheSide) (ac : Bool) (c : Cache) (i j : Nat) (t : CacheTag)
    (hu : c.tagsUndefined = false) (h : i ≠ j) : (c.setTag d ac i t).tagAt j = c.tagAt j := by
  unfold Cache.setTag Cache.tagAt
  simp only [hu, Bool.false_eq_true, if_false, Sparse.lookup_set_ne _ _ _ _ _ h]

/-- With no tag undefined, none becomes so. -/
theorem Cache.tagsUndefined_fill (d : CacheSide) (ac : Bool) (c : Cache) (w : WordAddr) (v : Word)
    (p : Bool) (hu : c.tagsUndefined = false) : (c.fill d ac w v p).tagsUndefined = false := by
  have hd : ∀ (b : Cache) i x, (b.setData i x).tagsUndefined = b.tagsUndefined := fun b i x => by
    unfold Cache.setData; split <;> rfl
  unfold Cache.fill
  rw [hd]
  simp [Cache.setTag, hu]

/-- Writing a tag leaves a flush outstanding exactly as long as the tag at another index is not written
(20_memory.md R127, 70_reset_and_hazards.md R510). -/
theorem Cache.tagsUndefined_setTag (d : CacheSide) (ac : Bool) (c : Cache) (i : Nat) (t : CacheTag) :
    (c.setTag d ac i t).tagsUndefined = true ↔ c.tagsUndefined = true ∧
      ∃ j, j < tagCount d ac ∧ j ≠ i ∧ c.tagAt j = none := by
  by_cases hu : c.tagsUndefined = true
  · have hl : ∀ j, (Sparse.lookup (Sparse.insert i t (Sparse.erase i c.tags)) j).isSome = true ↔
        (j ≠ i → ¬ c.tagAt j = none) := fun j => by
      unfold Cache.tagAt
      rw [Sparse.lookup_insert, Sparse.lookup_erase, if_pos hu]
      by_cases h : i = j
      · simp [h]
      · rw [if_neg h, if_neg h]
        cases Sparse.lookup c.tags j <;> simp [Ne.symm h]
    have hall : allTagsListed (tagCount d ac) (Sparse.insert i t (Sparse.erase i c.tags)) = true ↔
        ¬ ∃ j, j < tagCount d ac ∧ j ≠ i ∧ c.tagAt j = none := by
      simp only [allTagsListed, List.all_eq_true, List.mem_range, hl, not_exists, not_and]
    unfold Cache.setTag
    rw [if_pos hu]
    simp only
    split
    · rename_i h
      simp [hall.1 h]
    · rename_i h
      simp only [hu, true_and]
      exact iff_of_true trivial (not_not.1 (mt hall.2 h))
  · have : (c.setTag d ac i t).tagsUndefined = c.tagsUndefined := by
      unfold Cache.setTag; rw [if_neg hu]
    rw [this]
    simp [hu]

/-- An array holds a word, with good parity. -/
def Cache.Holds (d : CacheSide) (ac : Bool) (c : Cache) (n : Nat) (w : WordAddr) (v : Word) : Prop :=
  c.tagAt (tagIndex d ac w) = some { valid := true, tag := tagOf w, suspect := false } ∧
    c.dataAt n (dataIndex d ac w) = { word := v, suspect := false }

/-- A word an array holds hits. -/
theorem Cache.Holds.lookup {d : CacheSide} {ac : Bool} {c : Cache} {n : Nat} {w : WordAddr} {v : Word}
    (h : c.Holds d ac n w v) (u : FreeUse) :
    c.lookup d ac w n u = { hit := true, word := v, parityError := false } := by
  unfold Cache.lookup; rw [h.1, h.2]; simp

/-- A word just written is held. -/
theorem Cache.holds_fill (d : CacheSide) (ac : Bool) (c : Cache) (n : Nat) (w : WordAddr) (v : Word) :
    (c.fill d ac w v false).Holds d ac n w v := by
  unfold Cache.fill Cache.Holds
  simp only [Cache.tagAt_setData, Cache.dataAt_setData, and_true]
  exact Cache.tagAt_setTag _ _ _ _ _ (tagIndex_lt ..) (by simp [invalidTag])

/-- The words of a block have one tag and an index each. -/
theorem blockWord_index (d : CacheSide) (ac : Bool) (w : WordAddr) (j k : BitVec 2) :
    tagOf (blockWord w j) = tagOf (blockWord w k) ∧
      (j ≠ k → dataIndex d ac (blockWord w j) ≠ dataIndex d ac (blockWord w k)) := by
  have low : ∀ i : BitVec 2, (blockWord w i).extractLsb' 0 2 = i := fun i => by
    apply BitVec.eq_of_getLsbD_eq
    intro n hn
    rw [BitVec.getLsbD_extractLsb', Nat.zero_add,
      show (blockWord w i).getLsbD n = _ from BitVec.getLsbD_append (x := w.extractLsb' 2 28) (y := i)]
    simp [hn]
  have key : ∀ m, 2 ≤ m → j ≠ k →
      ((blockWord w j).extractLsb' 0 m).toNat ≠ ((blockWord w k).extractLsb' 0 m).toNat := by
    intro m hm hne h
    apply hne
    rw [← low j, ← low k]
    apply BitVec.eq_of_toNat_eq
    simp only [BitVec.extractLsb'_toNat, Nat.shiftRight_zero] at h ⊢
    have hd : 2 ^ 2 ∣ 2 ^ m := Nat.pow_dvd_pow 2 hm
    rw [← Nat.mod_mod_of_dvd _ hd, h, Nat.mod_mod_of_dvd _ hd]
  refine ⟨?_, fun hne => ?_⟩
  · unfold tagOf blockWord
    apply BitVec.eq_of_getLsbD_eq
    intro n hn
    simp only [BitVec.getLsbD_extractLsb', BitVec.getLsbD_append]
    have : ¬ 10 + n < 2 := by omega
    simp [this]
  · unfold dataIndex
    cases d <;> cases ac <;> exact key _ (by omega) hne

/-- Another word of the block written after it leaves a word held. -/
theorem Cache.Holds.fill_block {d : CacheSide} {ac : Bool} {c : Cache} {n : Nat} {w : WordAddr}
    {j k : BitVec 2} {v : Word} (h : c.Holds d ac n (blockWord w k) v) (hu : c.tagsUndefined = false)
    (hjk : j ≠ k) (x : Word) :
    (c.fill d ac (blockWord w j) x false).Holds d ac n (blockWord w k) v := by
  obtain ⟨ht, hd⟩ := blockWord_index d ac w j k
  unfold Cache.fill Cache.Holds
  rw [Cache.tagAt_setData, Cache.dataAt_setData_ne _ _ _ _ _ (hd hjk), Cache.dataAt_setTag]
  refine ⟨?_, h.2⟩
  by_cases hi : tagIndex d ac (blockWord w j) = tagIndex d ac (blockWord w k)
  · rw [hi, ht]; exact Cache.tagAt_setTag _ _ _ _ _ (tagIndex_lt ..) (by simp [invalidTag])
  · rw [Cache.tagAt_setTag_ne _ _ _ _ _ _ hu hi]; exact h.1

/-- Looking a key up in a filtered list that lists the key with no value the filter keeps. -/
theorem Sparse.lookup_filter_none {β : Type} (l : List (Nat × β)) (p : Nat × β → Bool) (a : Nat)
    (h : ∀ v, (a, v) ∈ l → p (a, v) = false) : Sparse.lookup (l.filter p) a = none := by
  induction l with
  | nil => rfl
  | cons e t ih =>
    obtain ⟨k, w⟩ := e
    have ht := ih (fun v hv => h v (List.mem_cons_of_mem _ hv))
    simp only [List.filter]
    split
    · rename_i hp
      by_cases hk : k = a
      · subst hk
        rw [h w (List.mem_cons_self ..)] at hp
        cases hp
      · simp only [Sparse.lookup, if_neg hk]; exact ht
    · exact ht

theorem Sparse.mem_insert {β : Type} (l : List (Nat × β)) (a : Nat) (v : β) (e : Nat × β)
    (h : e ∈ Sparse.insert a v l) : e = (a, v) ∨ e ∈ l := by
  induction l with
  | nil => exact .inl (by simpa [Sparse.insert] using h)
  | cons f t ih =>
    obtain ⟨k, w⟩ := f
    simp only [Sparse.insert] at h
    split at h
    · rcases List.mem_cons.1 h with h | h
      · exact .inl h
      · exact .inr h
    · split at h
      · rcases List.mem_cons.1 h with h | h
        · exact .inl h
        · exact .inr (List.mem_cons_of_mem _ h)
      · rcases List.mem_cons.1 h with h | h
        · exact .inr (h ▸ List.mem_cons_self ..)
        · rcases ih h with h | h
          · exact .inl h
          · exact .inr (List.mem_cons_of_mem _ h)

/-- The tag at an index after it is made invalid with good parity. -/
theorem Cache.tagAt_setTag_invalid (d : CacheSide) (ac : Bool) (c : Cache) (i : Nat) :
    (c.setTag d ac i invalidTag).tagAt i = some invalidTag := by
  unfold Cache.setTag
  split
  · simp only
    split
    · have hn := Sparse.lookup_filter_none (Sparse.insert i invalidTag (Sparse.erase i c.tags))
        (fun e => decide (e.1 < tagCount d ac) && !(e.2 == invalidTag)) i (fun v hv => by
          rcases Sparse.mem_insert _ _ _ _ hv with h | h
          · cases h; simp
          · have := (List.mem_filter.1 h).2; simp at this)
      unfold Cache.tagAt
      simp only [hn]
      rfl
    · unfold Cache.tagAt
      simp only [Sparse.lookup_insert, if_true]
  · rename_i h
    unfold Cache.tagAt Sparse.set
    simp only [if_true, Sparse.lookup_erase]
    rw [if_neg h]

/-- An invalidated entry misses (20_memory.md R128, R131). -/
theorem Cache.lookup_invalidate (d : CacheSide) (ac : Bool) (c : Cache) (w : WordAddr) (n : Nat)
    (u : FreeUse) : ((c.invalidate d ac w false).lookup d ac w n u).hit = false := by
  unfold Cache.lookup Cache.invalidate
  have h : ({ valid := false, tag := 0, suspect := false } : CacheTag) = invalidTag := rfl
  rw [h, Cache.tagAt_setTag_invalid]
  rfl

/-! ## The array that serves data accesses -/

@[simp] theorem State.dataSide_fillWord (s : State) (d : CacheSide) (w : WordAddr) (v : Word) (p : Bool) :
    (s.fillWord d w v p).dataSide = s.dataSide := by cases d <;> rfl

@[simp] theorem State.dataSide_invalidateWord (s : State) (d : CacheSide) (w : WordAddr) (p : Bool) :
    (s.invalidateWord d w p).dataSide = s.dataSide := by cases d <;> rfl

@[simp] theorem State.acInForce_fillWord (s : State) (d : CacheSide) (w : WordAddr) (v : Word)
    (p : Bool) : (s.fillWord d w v p).acInForce = s.acInForce := by cases d <;> rfl

@[simp] theorem State.acInForce_invalidateWord (s : State) (d : CacheSide) (w : WordAddr) (p : Bool) :
    (s.invalidateWord d w p).acInForce = s.acInForce := by cases d <;> rfl

theorem State.cache_fillWord (s : State) (d : CacheSide) (w : WordAddr) (v : Word) (p : Bool) :
    (s.fillWord d w v p).cache d = (s.cache d).fill d s.acInForce w v p := by cases d <;> rfl

theorem State.cache_invalidateWord (s : State) (d : CacheSide) (w : WordAddr) (p : Bool) :
    (s.invalidateWord d w p).cache d = (s.cache d).invalidate d s.acInForce w p := by cases d <;> rfl

/-- What a data access finds of a word written to the array that serves it (20_memory.md R125, R128,
R132). -/
theorem State.dataLookup_fillWord (s : State) (w : WordAddr) (v : Word) (p : Bool) :
    (s.fillWord s.dataSide w v p).dataLookup w =
      { hit := !(p && Config.freeBit .dataParity s.seq.draws), word := v,
        parityError := p && Config.freeBit .dataParity s.seq.draws } := by
  unfold State.dataLookup
  rw [State.dataSide_fillWord, State.cache_fillWord, State.acInForce_fillWord, State.fillWord_seq]
  exact Cache.lookup_fill ..

/-- After the refill of a block the array holds every word of it, as the bus gave it (20_memory.md
R126). -/
theorem State.holds_refill_block (s : State) (d : CacheSide) (r : BusReply) (w : WordAddr) (n : Nat)
    (k : BitVec 2) (hu : (s.cache d).tagsUndefined = false) :
    ((s.refill d r (blockWords w)).cache d).Holds d s.acInForce n (blockWord w k)
      (s.busWord r (blockWord w k)) := by
  have hs : (s.refill d r (blockWords w)).cache d =
      (((((s.cache d).fill d s.acInForce (blockWord w 0)
          (s.busWord r (blockWord w 0)) false).fill d s.acInForce (blockWord w 1)
          (s.busWord r (blockWord w 1)) false).fill d s.acInForce (blockWord w 2)
          (s.busWord r (blockWord w 2)) false).fill d s.acInForce (blockWord w 3)
          (s.busWord r (blockWord w 3)) false) := by
    have hb : ({ s with readBuffer := [] } : State).cache d = s.cache d := by cases d <;> rfl
    have ha : ({ s with readBuffer := [] } : State).acInForce = s.acInForce := rfl
    simp only [State.refill, State.receive, State.drainReadBuffer, blockWords, List.map_cons,
      List.map_nil, List.foldl_cons, List.foldl_nil, State.cache_fillWord, State.acInForce_fillWord,
      hb, ha]
  rw [hs]
  have u0 := Cache.tagsUndefined_fill d s.acInForce _ (blockWord w 0)
    (s.busWord r (blockWord w 0)) false hu
  have u1 := Cache.tagsUndefined_fill d s.acInForce _ (blockWord w 1)
    (s.busWord r (blockWord w 1)) false u0
  have u2 := Cache.tagsUndefined_fill d s.acInForce _ (blockWord w 2)
    (s.busWord r (blockWord w 2)) false u1
  have hk : ∀ k : BitVec 2, k = 0 ∨ k = 1 ∨ k = 2 ∨ k = 3 := by decide
  rcases hk k with rfl | rfl | rfl | rfl
  · exact (((Cache.holds_fill ..).fill_block u0 (by decide) _).fill_block u1 (by decide) _).fill_block
      u2 (by decide) _
  · exact ((Cache.holds_fill ..).fill_block u1 (by decide) _).fill_block u2 (by decide) _
  · exact (Cache.holds_fill ..).fill_block u2 (by decide) _
  · exact Cache.holds_fill ..

/-- A refill writes one array and empties the read buffer; nothing else changes (10_state.md R73). -/
theorem State.refill_eq (s : State) (d : CacheSide) (r : BusReply) (ws : List WordAddr) :
    s.refill d r ws =
      ({ s with readBuffer := [] } : State).withCache d ((s.refill d r ws).cache d) := by
  unfold State.refill State.drainReadBuffer State.receive
  have key : ∀ (l : List BufferedRead) (t : State), (∀ e ∈ l, e.side = d) →
      l.foldl (fun t e => t.fillWord e.side e.addr e.word false) t =
        t.withCache d ((l.foldl (fun t e => t.fillWord e.side e.addr e.word false) t).cache d) := by
    intro l
    induction l with
    | nil => intro t _; cases d <;> rfl
    | cons e l ih =>
      intro t h
      rw [List.foldl_cons]
      conv_lhs => rw [ih _ fun e he => h e (List.mem_cons_of_mem _ he)]
      generalize (l.foldl (fun t e => t.fillWord e.side e.addr e.word false)
        (t.fillWord e.side e.addr e.word false)).cache d = c
      rw [h e (List.mem_cons_self ..)]
      cases d <;> rfl
  exact key _ _ fun e he => by
    obtain ⟨w, _, rfl⟩ := List.mem_map.1 he
    rfl

/-- After the refill of a block every word of it hits a data access with the word the bus gave
(20_memory.md R126). -/
theorem State.dataLookup_refill_block (s : State) (r : BusReply) (w : WordAddr) (k : BitVec 2)
    (hu : (s.cache s.dataSide).tagsUndefined = false) :
    (s.refill s.dataSide r (blockWords w)).dataLookup (blockWord w k) =
      { hit := true, word := s.busWord r (blockWord w k), parityError := false } := by
  have h := (s.holds_refill_block s.dataSide r w s.seq.draws k hu).lookup .dataParity
  rw [← h, State.refill_eq]
  unfold State.dataLookup
  generalize (s.refill s.dataSide r (blockWords w)).cache s.dataSide = c
  generalize hd : s.dataSide = d
  have e : ∀ d', (({ s with readBuffer := [] } : State).withCache d' c).dataSide = s.dataSide :=
    fun d' => by cases d' <;> rfl
  rw [e, hd]
  cases d <;> rfl

/-- After the refill of a block every word of it hits an instruction fetch with the word the bus gave
(20_memory.md R126). -/
theorem State.fetchLookup_refill_block (s : State) (r : BusReply) (w : WordAddr) (k : BitVec 2)
    (hu : (s.cache s.fetchSide).tagsUndefined = false) :
    (s.refill s.fetchSide r (blockWords w)).fetchLookup (blockWord w k) =
      { hit := true, word := s.busWord r (blockWord w k), parityError := false } := by
  have h := (s.holds_refill_block s.fetchSide r w s.seq.draws k hu).lookup .fetchParity
  rw [← h, State.refill_eq]
  unfold State.fetchLookup
  generalize (s.refill s.fetchSide r (blockWords w)).cache s.fetchSide = c
  generalize hd : s.fetchSide = d
  have e : ∀ d', (({ s with readBuffer := [] } : State).withCache d' c).fetchSide = s.fetchSide :=
    fun d' => by cases d' <;> rfl
  rw [e, hd]
  cases d <;> rfl

/-- With the caches not swapped the refill of a fetch leaves the data cache (20_memory.md R129). -/
theorem State.dcache_refill_fetch (s : State) (r : BusReply) (ws : List WordAddr)
    (h : s.cp0.status.swc = false) : (s.refill s.fetchSide r ws).dcache = s.dcache := by
  have hd : s.fetchSide = .instr := by simp [State.fetchSide, h]
  rw [hd, State.refill_eq]
  rfl

/-- A word invalidated in the array that serves data accesses misses there (20_memory.md R128). -/
theorem State.dataLookup_invalidateWord (s : State) (w : WordAddr) :
    ((s.invalidateWord s.dataSide w false).dataLookup w).hit = false := by
  unfold State.dataLookup
  rw [State.dataSide_invalidateWord, State.cache_invalidateWord, State.acInForce_invalidateWord]
  exact Cache.lookup_invalidate ..

@[simp] theorem State.dataLookup_post (s : State) (e : PendingStore) (w : WordAddr) :
    (s.post e).dataLookup w = s.dataLookup w := by
  unfold State.post State.retireWrite
  split
  · split <;> rfl
  · rfl

/-- With the caches not swapped a data access leaves the instruction cache (20_memory.md R129). -/
theorem State.icache_fillWord (s : State) (w : WordAddr) (v : Word) (p : Bool)
    (h : s.cp0.status.swc = false) : (s.fillWord s.dataSide w v p).icache = s.icache := by
  have hd : s.dataSide = .data := by simp [State.dataSide, h]
  rw [hd]; rfl

/-- With the caches swapped a data access leaves the data cache (20_memory.md R129). -/
theorem State.dcache_fillWord (s : State) (w : WordAddr) (v : Word) (p : Bool)
    (h : s.cp0.status.swc = true) : (s.fillWord s.dataSide w v p).dcache = s.dcache := by
  have hd : s.dataSide = .instr := by simp [State.dataSide, h]
  rw [hd]; rfl

/-! ## Posted stores -/

/-- A statement about the lanes a store changes, read from a state with the same memory. -/
theorem StoresLanes.of_settled {s u t : State} {w : WordAddr} {l : Lanes} {d : Word}
    (h : u.settledMemory = s.settledMemory) (hm : u.mode = s.mode) (g : StoresLanes u t w l d) :
    StoresLanes s t w l d := by
  unfold StoresLanes at *
  rw [hm] at g
  exact ⟨g.1, fun a ha => (g.2 a ha).trans (State.memoryByte_congr hm h a)⟩

end Sys2Proof.Machine
end

