-- ==== Sys2Proof/Laws/Invariant.lean ====
section
/-! SUPPORT. The shared operations keep the invariant of the machine. -/

namespace Sys2Proof.Machine

/-- A state that agrees on what the invariant reads. -/
theorem Inv.congr {s t : State} (h : Inv s) (h1 : t.mem = s.mem) (h2 : t.writeBuffer = s.writeBuffer)
    (h3 : t.cp0.random = s.cp0.random) (h4 : t.chip = s.chip)
    (h5 : t.cp0.status.ts = s.cp0.status.ts) (h6 : t.cp0.config.fpInt = s.cp0.config.fpInt)
    (h7 : t.seq.configOld.fpInt = s.seq.configOld.fpInt) (h8 : t.seq.loadPending = s.seq.loadPending)
    (h9 : t.seq.configWindow = s.seq.configWindow) (h10 : t.readBuffer = s.readBuffer)
    (h11 : t.seq.busBlocked = s.seq.busBlocked) : Inv t := by
  obtain ⟨a, b, c, d, e, f, g, i⟩ := h
  exact ⟨h1 ▸ a, by rw [State.waitingStores_congr h2 h11]; exact b, h3 ▸ c, by rw [h4, h5]; exact d, by rw [h4, h6, h7]; exact e,
    by rw [h8]; exact f, h9 ▸ g, h10 ▸ i⟩

theorem Inv.writeReg {s : State} (h : Inv s) (r : Reg) (v : Word) : Inv (s.writeReg r v) :=
  h.congr (by simp) (by simp) (by simp) (by simp) (by simp) (by simp) (by simp) (by simp) (by simp)
    (by simp) (by simp)

theorem Inv.writeFgr {s : State} (h : Inv s) (r : Reg) (v : Word) : Inv (s.writeFgr r v) :=
  h.congr rfl rfl rfl rfl rfl rfl rfl rfl rfl rfl rfl

theorem Inv.withFcr31 {s : State} (h : Inv s) (v : Fcr31) : Inv (s.withFcr31 v) :=
  h.congr rfl rfl rfl rfl rfl rfl rfl rfl rfl rfl rfl

theorem Inv.recordFp {s : State} (h : Inv s) (e : FpExceptions) : Inv (s.recordFp e) :=
  h.congr rfl rfl rfl rfl rfl rfl rfl rfl rfl rfl rfl

theorem Inv.loadFcr31 {s : State} (h : Inv s) (v : Fcr31) : Inv (s.loadFcr31 v) :=
  h.congr rfl rfl rfl rfl rfl rfl rfl rfl rfl rfl rfl

theorem Inv.withHi {s : State} (h : Inv s) (v : Word) : Inv (s.withHi v) :=
  h.congr rfl rfl rfl rfl rfl rfl rfl rfl rfl rfl rfl

theorem Inv.withLo {s : State} (h : Inv s) (v : Word) : Inv (s.withLo v) :=
  h.congr rfl rfl rfl rfl rfl rfl rfl rfl rfl rfl rfl

theorem Inv.writeTlb {s : State} (h : Inv s) (i : BitVec 6) (e : TlbEntry) : Inv (s.writeTlb i e) :=
  h.congr rfl rfl rfl rfl rfl rfl rfl rfl rfl rfl rfl

theorem Inv.withStatus {s : State} (h : Inv s) (v : StatusReg)
    (hv : v.ts = s.cp0.status.ts ∨ v.ts = true) : Inv (s.withStatus v) := by
  obtain ⟨a, b, c, d, e, f, g, i⟩ := h
  refine ⟨a, b, c, fun hc => ?_, e, f, g, i⟩
  rcases hv with hv | hv
  · exact hv.trans (d hc)
  · exact hv

theorem Inv.withSeq {s : State} (h : Inv s) (q : Sequencing)
    (h1 : q.configOld.fpInt = s.seq.configOld.fpInt) (h2 : ∀ r v, q.loadPending = some (r, v) → r ≠ 0)
    (h3 : q.configWindow ≤ 10) (h4 : q.busBlocked = s.seq.busBlocked) : Inv (s.withSeq q) := by
  obtain ⟨a, b, c, d, e, f, g, i⟩ := h
  exact ⟨a, by rw [State.waitingStores_congr (s := s) (t := s.withSeq q) rfl h4]; exact b, c, d, fun hc => ⟨(e hc).1, by show q.configOld.fpInt.toNat < 6; rw [h1]; exact (e hc).2⟩,
    h2, h3, i⟩

/-- Completing an instruction (42_jump_branch.md R240). -/
theorem Inv.advance {s : State} (h : Inv s) (b : Bool) (t : Option Word) : Inv (s.advance b t) := by
  obtain ⟨a1, a2, a3, a4, a5, a6, a7, a8⟩ := h
  refine ⟨by simpa using a1, by simpa [State.waitingStores] using a2, ?_, ?_, ?_, fun r v hr => ?_, ?_,
    by simpa using a8⟩
  · exact randomDraw_ge _
  · simpa using a4
  · simpa [State.advance_seq] using a5
  · simp at hr
  · simp only [State.advance_seq]; omega

/-- Taking an exception (60_exceptions.md R420). -/
theorem Inv.takeException {s : State} (h : Inv s) (x : Exc) : Inv (s.takeException x) := by
  obtain ⟨a1, a2, a3, a4, a5, a6, a7, a8⟩ := h
  refine ⟨by simpa using a1, by simpa [State.waitingStores] using a2, ?_, ?_, ?_, fun r v hr => ?_, ?_,
    by simpa using a8⟩
  · simp only [State.takeException_cp0]; exact randomDraw_ge _
  · simpa [StatusReg.push] using a4
  · simpa using a5
  · simp at hr
  · simpa using a7

theorem Inv.deferLoad {s : State} (h : Inv s) (r : Reg) (v : Word) : Inv (s.deferLoad r v) := by
  unfold State.deferLoad
  split
  · exact h
  · rename_i hr
    exact h.withSeq _ rfl (fun r' v' e => by cases e; exact hr) h.window rfl

theorem Inv.deferFpLoad {s : State} (h : Inv s) (r : Reg) (v : Word) : Inv (s.deferFpLoad r v) :=
  h.withSeq _ rfl h.pending h.window rfl

theorem Inv.fillWord {s : State} (h : Inv s) (d : CacheSide) (w : WordAddr) (v : Word) (p : Bool) :
    Inv (s.fillWord d w v p) :=
  h.congr (by simp) (by simp) (by simp) (by simp) (by simp) (by simp) (by simp) (by simp) (by simp)
    (by simp) (by simp)

theorem Inv.invalidateWord {s : State} (h : Inv s) (d : CacheSide) (w : WordAddr) (p : Bool) :
    Inv (s.invalidateWord d w p) :=
  h.congr (by simp) (by simp) (by simp) (by simp) (by simp) (by simp) (by simp) (by simp) (by simp)
    (by simp) (by simp)

theorem Inv.recordParity {s : State} (h : Inv s) (l : Lookup) : Inv (s.recordParity l) :=
  h.withStatus _ (.inl rfl)

theorem Inv.noteFetch {s : State} (h : Inv s) (c : Bool) : Inv (s.noteFetch c) :=
  h.withSeq _ rfl h.pending h.window rfl

theorem Inv.drain {s : State} (h : Inv s) : Inv s.drain := by
  obtain ⟨a, b, c, d, e, f, g, i⟩ := h
  exact ⟨Memory.wf_foldl_apply _ _ a, by simp [State.waitingStores_length], c, d, e, f, g, i⟩

/-- The oldest pending store reaches memory (20_memory.md R120). -/
theorem Inv.retireWrite {s : State} (h : Inv s) : Inv s.retireWrite := by
  obtain ⟨a, b, c, d, e, f, g, i⟩ := h
  have hb : s.retireWrite.waitingStores.length ≤ writeBufferDepth := by
    rw [State.waitingStores_length, State.retireWrite_length, State.retireWrite_seq]
    rw [State.waitingStores_length] at b; omega
  revert hb
  unfold State.retireWrite
  split <;> intro hb
  · exact ⟨a, b, c, d, e, f, g, i⟩
  · exact ⟨Memory.wf_writeLanes _ _ _ _ a, hb, c, d, e, f, g, i⟩

/-- At most four stores wait after a store enters the buffer (20_memory.md R120, 71_bus_interface.md
R551). -/
theorem State.post_waiting {s : State} (h : s.waitingStores.length ≤ writeBufferDepth)
    (e : PendingStore) : (s.post e).waitingStores.length ≤ writeBufferDepth := by
  rw [State.waitingStores_length, State.post_length, State.post_seq]
  have hf : s.bufferFull = true ↔ writeBufferDepth ≤ s.waitingStores.length := by
    unfold State.bufferFull; exact decide_eq_true_iff
  rw [State.waitingStores_length] at h hf
  by_cases hc : s.bufferFull = true
  · have := hf.1 hc
    rw [if_pos hc]; unfold writeBufferDepth at *; omega
  · have := mt hf.2 hc
    rw [if_neg hc]; unfold writeBufferDepth at *; omega

/-- A store enters the write buffer (20_memory.md R120). -/
theorem Inv.post {s : State} (h : Inv s) (e : PendingStore) : Inv (s.post e) := by
  have hl : (s.post e).waitingStores.length ≤ writeBufferDepth := State.post_waiting h.writeBuffer e
  revert hl
  unfold State.post
  split <;> intro hl
  · obtain ⟨a, b, c, d, e', f, g, i⟩ := h.retireWrite
    exact ⟨a, hl, c, d, e', f, g, i⟩
  · obtain ⟨a, b, c, d, e', f, g, i⟩ := h
    exact ⟨a, hl, c, d, e', f, g, i⟩

theorem Inv.foldl {α : Type} (f : State → α → State) (hf : ∀ s a, Inv s → Inv (f s a)) (l : List α)
    {s : State} (h : Inv s) : Inv (l.foldl f s) := by
  induction l generalizing s with
  | nil => exact h
  | cons a l ih => exact ih (hf s a h)

theorem Inv.refill {s : State} (h : Inv s) (d : CacheSide) (r : BusReply) (ws : List WordAddr) :
    Inv (s.refill d r ws) := by
  obtain ⟨a, b, c, d', e, f, g, _⟩ := h
  exact Inv.foldl _ (fun _ _ h => h.fillWord ..) _ ⟨a, b, c, d', e, f, g, rfl⟩

theorem Inv.refillFailed {s : State} (h : Inv s) (d : CacheSide) (u : FreeUse) (ws : List WordAddr) :
    Inv (s.refillFailed d u ws) := by
  unfold State.refillFailed
  split
  · exact Inv.foldl _ (fun _ _ h => h.invalidateWord ..) ws h
  · exact h

theorem Inv.stall {s : State} (h : Inv s) : Inv s.stall := h.withSeq _ rfl h.pending h.window rfl

theorem Inv.waitForBus {s : State} (h : Inv s) : Inv s.waitForBus :=
  h.withSeq _ rfl h.pending h.window rfl

/-- The oldest pending store goes out, however that ends (71_bus_interface.md R548). -/
theorem Inv.sendWrite {s : State} (h : Inv s) (r : WriteReply) : Inv (s.sendWrite r) := by
  cases r with
  | stored => exact h.retireWrite
  | ignored =>
    obtain ⟨a, b, c, d, e, f, g, i⟩ := h
    refine ⟨a, ?_, c, d, e, f, g, i⟩
    rw [State.waitingStores_length] at b ⊢
    simp only [State.sendWrite, State.dropWrite_writeBuffer, State.dropWrite_seq, List.length_tail]
    split at b <;> simp only [*, if_true, if_false, Bool.false_eq_true] <;> omega
  | noAnswer =>
    show Inv s.blockBus
    unfold State.blockBus
    split
    · exact h
    · obtain ⟨a, b, c, d, e, f, g, i⟩ := h
      refine ⟨a, ?_, c, d, e, f, g, i⟩
      rw [State.waitingStores_length] at b ⊢
      simp only [if_true]
      split at b <;> omega

/-! ## Outcomes -/

/-- Every next state an outcome gives satisfies the invariant. -/
def InvResult (o : Result) : Prop := ∀ t, o = .next t → Inv t

/-- Every state an access carries satisfies the invariant. -/
def InvAccess {α : Type} (m : Access α) : Prop :=
  (∀ a t, m = .ok a t → Inv t) ∧ (∀ x t, m = .exc x t → Inv t) ∧ ∀ t, m = .never t → Inv t

theorem InvResult.next {s : State} (h : Inv s) : InvResult (.next s) := by intro t e; cases e; exact h

theorem InvResult.refused (r : Refusal) : InvResult (.refused r) := by intro t e; cases e

theorem InvResult.raise {s : State} (h : Inv s) (x : Exc) : InvResult (s.raise x) :=
  .next (h.takeException x)

theorem InvResult.ite {c : Bool} {o p : Result} (h : InvResult o) (g : InvResult p) :
    InvResult (if c then o else p) := by split; exacts [h, g]

theorem InvAccess.ok {α : Type} {s : State} (a : α) (h : Inv s) : InvAccess (.ok a s) :=
  ⟨fun _ _ e => (by cases e; exact h), fun _ _ e => (by cases e), fun _ e => by cases e⟩

theorem InvAccess.exc {α : Type} {s : State} (x : Exc) (h : Inv s) :
    InvAccess (.exc x s : Access α) :=
  ⟨fun _ _ e => (by cases e), fun _ _ e => (by cases e; exact h), fun _ e => by cases e⟩

theorem InvAccess.never {α : Type} {s : State} (h : Inv s) : InvAccess (.never s : Access α) :=
  ⟨fun _ _ e => (by cases e), fun _ _ e => (by cases e), fun _ e => by cases e; exact h⟩

theorem InvAccess.refused {α : Type} (r : Refusal) : InvAccess (.refused r : Access α) :=
  ⟨fun _ _ e => (by cases e), fun _ _ e => (by cases e), fun _ e => by cases e⟩

theorem InvAccess.bind {α β : Type} {m : Access α} {k : α → State → Access β} (h : InvAccess m)
    (hk : ∀ a t, Inv t → InvAccess (k a t)) : InvAccess (m.bind k) := by
  cases m with
  | ok a t => exact hk a t (h.1 a t rfl)
  | exc x t => exact .exc x (h.2.1 x t rfl)
  | never t => exact .never (h.2.2 t rfl)
  | refused r => exact .refused r

theorem InvAccess.finish {α : Type} {m : Access α} {k : α → State → Result} (h : InvAccess m)
    (hk : ∀ a t, Inv t → InvResult (k a t)) : InvResult (m.finish k) := by
  cases m with
  | ok a t => exact hk a t (h.1 a t rfl)
  | exc x t => exact .raise (h.2.1 x t rfl) x
  | never t => exact .next (h.2.2 t rfl).waitForBus
  | refused r => exact .refused r

/-! ## Accesses -/

theorem Inv.translate {s : State} (h : Inv s) (va : Word) (k : AccessKind) :
    InvAccess (s.translate va k) := by
  unfold State.translate State.translateMapped State.useTlbEntry
  split
  · exact .ok _ h
  split
  · exact .ok _ h
  split
  · split
    · exact .refused _
    · split
      · exact .exc _ h
      · split
        · exact .exc _ h
        · split
          · exact .exc _ h
          · exact .ok _ h
      · exact .ok _ (h.withStatus _ (.inr rfl))
  split
  · exact .ok _ h
  · exact .ok _ h

theorem Inv.address {s : State} (h : Inv s) (va : Word) (k : AccessKind) (a : Bool) :
    InvAccess (s.address va k a) := by
  unfold State.address
  split
  · exact .exc _ h
  split
  · exact .exc _ h
  · exact h.translate va k

theorem Inv.readUncached {s : State} (h : Inv s) (w : WordAddr) : InvAccess (s.readUncached w) := by
  unfold State.readUncached
  split
  · exact .never h
  split
  · exact .never h.drain
  · exact .exc _ h.drain
  · exact .ok _ h.drain
  · exact .ok _ h.drain

theorem Inv.readMiss {s : State} (h : Inv s) (w : WordAddr) : InvAccess (s.readMiss w) := by
  unfold State.readMiss
  split
  · exact .never h
  split
  · exact .never h.drain
  · exact .exc _ (h.drain.refillFailed ..)
  · exact .ok _ (h.drain.refill ..)
  · exact .ok _ (h.drain.refill ..)

theorem Inv.loadWord {s : State} (h : Inv s) (w : WordAddr) (c : Bool) :
    InvAccess (s.loadWord w c) := by
  unfold State.loadWord State.loadIsolated State.loadCached
  split
  · exact .ok _ ((h.recordParity _).withStatus _ (.inl rfl))
  · split
    · exact .refused _
    · simp only
      split
      · exact .ok _ h
      · exact (h.recordParity _).readMiss w
  · exact .refused _
  · exact h.readUncached w

theorem Inv.postStore {s : State} (h : Inv s) (e : PendingStore) : InvAccess (s.postStore e) := by
  unfold State.postStore
  split
  · exact .never h
  · exact .ok _ (h.post e)

theorem Inv.storeWord {s : State} (h : Inv s) (w : WordAddr) (c : Bool) (l : Lanes) (v : Word) :
    InvAccess (s.storeWord w c l v) := by
  unfold State.storeWord State.storeIsolated State.storeCache
  split
  · refine .ok _ ?_
    split
    · exact h.fillWord ..
    · exact h.invalidateWord ..
  · split
    · exact .refused _
    · refine Inv.postStore ?_ _
      simp only
      split
      · exact h.fillWord ..
      · split
        · exact h.fillWord ..
        · exact h.recordParity _
  · exact .refused _
  · exact h.postStore _

theorem Inv.memRead {s : State} (h : Inv s) (va : Word) (n : Width) : InvAccess (s.memRead va n) :=
  (h.address ..).bind fun _ _ g => (g.loadWord ..).bind fun _ _ k => .ok _ k

theorem Inv.memReadLanes {s : State} (h : Inv s) (va : Word) : InvAccess (s.memReadLanes va) :=
  (h.address ..).bind fun _ _ g => g.loadWord ..

theorem Inv.memWrite {s : State} (h : Inv s) (va : Word) (n : Width) (v : Word) :
    InvAccess (s.memWrite va n v) := (h.address ..).bind fun _ _ g => g.storeWord ..

theorem Inv.memWriteLanes {s : State} (h : Inv s) (va : Word) (l : Lanes) (v : Word) :
    InvAccess (s.memWriteLanes va l v) := (h.address ..).bind fun _ _ g => g.storeWord ..

theorem Inv.fetchWord {s : State} (h : Inv s) : InvAccess s.fetchWord := by
  unfold State.fetchWord
  refine (h.address ..).bind fun p t g => ?_
  unfold State.fetchAt State.fetchCached State.fetchMiss State.fetchUncached
  have hn := g.noteFetch p.2
  split
  · split
    · exact .refused _
    · split
      · exact .refused _
      · simp only
        split
        · exact .ok _ hn
        split
        · exact .refused _
        split
        · exact .never (hn.recordParity _)
        split
        · exact .never (hn.recordParity _)
        · exact .exc _ ((hn.recordParity _).refillFailed ..)
        · exact .ok _ ((hn.recordParity _).refill ..)
        · exact .ok _ ((hn.recordParity _).refill ..)
  · split
    · exact .refused _
    split
    · exact .never hn
    split
    · exact .never hn.drain
    · exact .exc _ hn.drain
    · exact .ok _ hn.drain
    · exact .ok _ hn.drain

end Sys2Proof.Machine
end

