-- ==== Sys2Proof/Laws/Bus.lean ====
section
/-! SUPPORT. What the bus does around an instruction: the sampled inputs stay, the invariant holds. -/

namespace Sys2Proof.Machine

/-! ## The sampled inputs -/

/-- No bus event changes the sampled inputs. -/
theorem State.env_busEvent (s : State) (e : BusEvent) : (s.busEvent e).env = s.env := by
  unfold State.busEvent
  split
  · rfl
  · cases e with
    | write r =>
      cases r <;> simp [State.sendWrite, State.retireWrite, State.dropWrite, State.blockBus] <;> split <;>
        rfl
    | dma ws =>
      simp only
      clear * -
      induction ws generalizing s with
      | nil => rfl
      | cons d ds ih => simp only [List.foldl_cons]; rw [ih]; rfl

/-- What the bus does between fetch and data access leaves the sampled inputs (71_bus_interface.md R560). -/
theorem State.env_serveData (s : State) : s.serveData.env = s.env := by
  unfold State.serveData
  generalize s.env.dataEvents = l
  induction l generalizing s with
  | nil => rfl
  | cons d ds ih => simp only [List.foldl_cons]; rw [ih, State.env_busEvent]

theorem State.env_fillWord (s : State) (d w v p) : (s.fillWord d w v p).env = s.env := by cases d <;> rfl

theorem State.env_invalidateWord (s : State) (d w p) :
    (s.invalidateWord d w p).env = s.env := by cases d <;> rfl

theorem State.env_foldl {α : Type} (f : State → α → State) (h : ∀ s a, (f s a).env = s.env)
    (l : List α) (s : State) : (l.foldl f s).env = s.env := by
  induction l generalizing s with
  | nil => rfl
  | cons a l ih => simp only [List.foldl_cons]; rw [ih, h]

theorem State.env_refill (s : State) (d r ws) : (s.refill d r ws).env = s.env := by
  unfold State.refill State.drainReadBuffer
  rw [State.env_foldl]; rfl
  intros; exact State.env_fillWord ..

theorem State.env_refillFailed (s : State) (d r ws) : (s.refillFailed d r ws).env = s.env := by
  unfold State.refillFailed
  split
  · rw [State.env_foldl]; intros; exact State.env_invalidateWord ..
  · rfl

/-- Translation leaves the sampled inputs. -/
theorem State.env_address {s t : State} {va k b p} (h : s.address va k b = .ok p t) : t.env = s.env := by
  unfold State.address at h
  repeat' split at h
  all_goals try cases h
  unfold State.translate at h
  repeat' split at h
  all_goals try (injection h with _ e; rw [← e])
  unfold State.translateMapped at h
  split at h
  · cases h
  · split at h
    · cases h
    · unfold State.useTlbEntry at h; repeat' split at h
      all_goals try cases h
      rfl
    · injection h with _ e; rw [← e]; rfl

/-- A fetch that answers leaves the sampled inputs. -/
theorem State.env_fetchAt {s t : State} {w c v} (h : s.fetchAt w c = .ok v t) : t.env = s.env := by
  unfold State.fetchAt at h
  split at h
  · split at h
    · cases h
    · split at h
      · cases h
      · unfold State.fetchCached at h
        simp only at h
        split at h
        · cases h; rfl
        · unfold State.fetchMiss at h
          repeat' split at h
          all_goals try cases h
          all_goals exact State.env_refill ..
  · unfold State.fetchUncached at h
    repeat' split at h
    all_goals try cases h
    all_goals rfl

/-- A fetch that answers leaves the sampled inputs (20_memory.md R99). -/
theorem State.env_fetchWord {s t : State} {v} (h : s.fetchWord = .ok v t) : t.env = s.env := by
  unfold State.fetchWord at h
  cases e : s.address s.pc .fetch (s.pc.extractLsb' 0 2 == 0) with
  | ok p u => rw [e] at h; simp only [Access.bind] at h
              rw [State.env_fetchAt h, ← State.env_address e]; rfl
  | _ => rw [e] at h; cases h

/-- An event between two instructions leaves the sampled inputs. -/
theorem State.env_boundary {s t : State} {e} (h : s.boundaryEvent e = .ok t) : t.env = s.env := by
  cases e with
  | bus e => cases h; exact State.env_busEvent ..
  | coherentDma ws =>
    unfold State.boundaryEvent State.coherentGrant at h
    simp only at h
    split at h
    · cases h; rfl
    · split at h
      · have : s.drainReadBuffer.drain.env = s.env := by
          show s.drainReadBuffer.env = _
          unfold State.drainReadBuffer
          rw [State.env_foldl]; intros; exact State.env_fillWord ..
        rw [← this]
        clear this
        revert h
        generalize s.drainReadBuffer.drain = u
        intro h
        induction ws generalizing u with
        | nil => cases h; rfl
        | cons d ds ih =>
          rw [List.foldlM_cons] at h
          cases e : u.dmaCoherent d with
          | error r => rw [e] at h; cases h
          | ok u' =>
            rw [e] at h
            rw [ih _ h]
            unfold State.dmaCoherent at e
            repeat' split at e
            all_goals cases e
            · unfold State.dmaInvalidate; exact State.env_invalidateWord ..
            · rfl
      · cases h; exact State.env_busEvent ..

/-- What the bus does before an instruction leaves the sampled inputs. -/
theorem State.env_serveBus {s t : State} (h : s.serveBus = .ok t) : t.env = s.env := by
  unfold State.serveBus at h
  revert h; generalize s.env.events = l
  intro h
  induction l generalizing s with
  | nil => cases h; rfl
  | cons d ds ih =>
    rw [List.foldlM_cons] at h
    cases e : s.boundaryEvent d with
    | error r => rw [e] at h; cases h
    | ok u => rw [e] at h; rw [ih h, State.env_boundary e]

/-! ## The invariant -/

theorem Inv.dmaStore {s : State} (h : Inv s) (d : DmaWrite) : Inv (s.dmaStore d) := by
  obtain ⟨a, b, c, d, e, f, g, i⟩ := h
  exact ⟨Memory.wf_writeLanes _ _ _ _ a, b, c, d, e, f, g, i⟩

/-- A bus event keeps the invariant (71_bus_interface.md R548, R560). -/
theorem Inv.busEvent {s : State} (h : Inv s) (e : BusEvent) : Inv (s.busEvent e) := by
  unfold State.busEvent
  split
  · exact h
  · split
    · exact h.sendWrite _
    · exact Inv.foldl _ (fun _ _ g => g.dmaStore _) _ h

theorem Inv.serveData {s : State} (h : Inv s) : Inv s.serveData :=
  Inv.foldl _ (fun _ _ g => g.busEvent _) _ h

/-- An invariant read buffer has nothing to give to a cache (10_state.md R73). -/
theorem Inv.drainReadBuffer {s : State} (h : Inv s) : s.drainReadBuffer = s := by
  have hb := h.readBuffer
  unfold State.drainReadBuffer
  rw [hb]
  simp only [List.foldl_nil]
  rw [← hb]

end Sys2Proof.Machine
end

