-- ==== Sys2Proof/Laws/Caches.lean ====
section
/-! SUPPORT. Which entries of which cache array an access changes, and what a refill that ended in BusError
leaves (20_memory.md R124 to R129, 71_bus_interface.md R546). -/

namespace Sys2Proof.Machine

/-! ## The entries an operation changes -/

theorem keepsOtherEntries_refl (s : State) (d : CacheSide) (ws : List WordAddr) :
    KeepsOtherEntries s s d ws := ⟨fun _ _ => rfl, fun _ _ => rfl, fun _ _ _ => rfl⟩

theorem KeepsOtherEntries.trans {s t u : State} {d : CacheSide} {ws vs : List WordAddr}
    (h : KeepsOtherEntries s t d ws) (g : KeepsOtherEntries t u d vs)
    (ha : t.acInForce = s.acInForce) : KeepsOtherEntries s u d (ws ++ vs) := by
  obtain ⟨h1, h2, h3⟩ := h
  obtain ⟨g1, g2, g3⟩ := g
  rw [ha] at g2 g3
  refine ⟨fun e he => (g1 e he).trans (h1 e he), fun i hi => ?_, fun n i hi => ?_⟩
  · exact (g2 i fun w hw => hi w (List.mem_append_right _ hw)).trans
      (h2 i fun w hw => hi w (List.mem_append_left _ hw))
  · exact (g3 n i fun w hw => hi w (List.mem_append_right _ hw)).trans
      (h3 n i fun w hw => hi w (List.mem_append_left _ hw))

/-- Replacing one array leaves the other. -/
theorem State.cache_withCache_ne (s : State) {d e : CacheSide} (c : Cache) (h : e ≠ d) :
    (s.withCache d c).cache e = s.cache e := by
  cases d <;> cases e <;> first | exact absurd rfl h | rfl

theorem State.tagsUndefined_invalidateWord (s : State) (d : CacheSide) (w : WordAddr) (p : Bool)
    (hu : (s.cache d).tagsUndefined = false) :
    ((s.invalidateWord d w p).cache d).tagsUndefined = false := by
  rw [State.cache_invalidateWord]
  simp [Cache.invalidate, Cache.setTag, hu]

theorem State.tagsUndefined_fillWord (s : State) (d : CacheSide) (w : WordAddr) (v : Word) (p : Bool)
    (hu : (s.cache d).tagsUndefined = false) :
    ((s.fillWord d w v p).cache d).tagsUndefined = false := by
  rw [State.cache_fillWord]; exact Cache.tagsUndefined_fill _ _ _ _ _ _ hu

/-- Filling a word changes the entry it selects only (20_memory.md R125). -/
theorem State.fillWord_keeps (s : State) (d : CacheSide) (w : WordAddr) (v : Word) (p : Bool)
    (hu : (s.cache d).tagsUndefined = false) : KeepsOtherEntries s (s.fillWord d w v p) d [w] := by
  refine ⟨fun e he => State.cache_withCache_ne _ _ he, fun i hi => ?_, fun n i hi => ?_⟩ <;>
    rw [State.cache_fillWord, Cache.fill]
  · rw [Cache.tagAt_setData]
    exact Cache.tagAt_setTag_ne _ _ _ _ _ _ hu (hi w (List.mem_singleton_self w)).symm
  · rw [Cache.dataAt_setData_ne _ _ _ _ _ (hi w (List.mem_singleton_self w)).symm, Cache.dataAt_setTag]

/-- Invalidating a word changes no data word (20_memory.md R128). -/
theorem State.dataAt_invalidateWord (s : State) (d : CacheSide) (w : WordAddr) (p : Bool) (n i : Nat) :
    ((s.invalidateWord d w p).cache d).dataAt n i = (s.cache d).dataAt n i := by
  rw [State.cache_invalidateWord]; exact Cache.dataAt_setTag ..

/-- Invalidating a word changes the tag it selects only (20_memory.md R128). -/
theorem State.invalidateWord_keeps (s : State) (d : CacheSide) (w : WordAddr) (p : Bool)
    (hu : (s.cache d).tagsUndefined = false) : KeepsOtherEntries s (s.invalidateWord d w p) d [w] := by
  refine ⟨fun e he => State.cache_withCache_ne _ _ he, fun i hi => ?_, fun n i _ => ?_⟩
  · rw [State.cache_invalidateWord]
    exact Cache.tagAt_setTag_ne _ _ _ _ _ _ hu (hi w (List.mem_singleton_self w)).symm
  · exact s.dataAt_invalidateWord d w p n i

/-! ## Refills -/

theorem fillWords_keep (d : CacheSide) (l : List BufferedRead) (hl : ∀ e ∈ l, e.side = d) (s : State)
    (hu : (s.cache d).tagsUndefined = false) :
    KeepsOtherEntries s (l.foldl (fun t e => t.fillWord e.side e.addr e.word false) s) d
      (l.map BufferedRead.addr) := by
  induction l generalizing s with
  | nil => exact keepsOtherEntries_refl s d []
  | cons e l ih =>
    have he : e.side = d := hl e (List.mem_cons_self ..)
    subst he
    exact (s.fillWord_keeps e.side e.addr e.word false hu).trans
      (ih (fun f hf => hl f (List.mem_cons_of_mem _ hf)) _
        (s.tagsUndefined_fillWord e.side e.addr e.word false hu)) (by simp)

/-- A refill changes the entries of the words it reads only (20_memory.md R126). -/
theorem State.refill_keeps (s : State) (d : CacheSide) (r : BusReply) (ws : List WordAddr)
    (hu : (s.cache d).tagsUndefined = false) : KeepsOtherEntries s (s.refill d r ws) d ws := by
  unfold State.refill State.receive State.drainReadBuffer
  have h := fillWords_keep d (ws.map fun w => { side := d, addr := w, word := s.busWord r w })
    (fun e he => by obtain ⟨w, _, rfl⟩ := List.mem_map.1 he; rfl)
    ({ s with readBuffer := [] } : State) (by cases d <;> exact hu)
  rw [List.map_map, show BufferedRead.addr ∘ (fun w => { side := d, addr := w, word := s.busWord r w }) =
    id from rfl, List.map_id] at h
  obtain ⟨h1, h2, h3⟩ := h
  exact ⟨fun e he => (h1 e he).trans (by cases e <;> rfl), fun i hi => (h2 i hi).trans (by cases d <;> rfl),
    fun n i hi => (h3 n i hi).trans (by cases d <;> rfl)⟩

/-- The entries of words made invalid one after the other. -/
theorem invalidateWords_spec (d : CacheSide) (ws : List WordAddr) (s : State)
    (hu : (s.cache d).tagsUndefined = false) :
    KeepsOtherEntries s (ws.foldl (fun t w => t.invalidateWord d w false) s) d ws ∧
    (∀ n i, ((ws.foldl (fun t w => t.invalidateWord d w false) s).cache d).dataAt n i =
      (s.cache d).dataAt n i) ∧
    ∀ i, ((s.cache d).tagAt i = some invalidTag ∨ ∃ w ∈ ws, i = tagIndex d s.acInForce w) →
      ((ws.foldl (fun t w => t.invalidateWord d w false) s).cache d).tagAt i = some invalidTag := by
  induction ws generalizing s with
  | nil =>
    exact ⟨keepsOtherEntries_refl s d [], fun _ _ => rfl, fun i h => h.elim id fun ⟨_, hw, _⟩ =>
      absurd hw (List.not_mem_nil)⟩
  | cons w ws ih =>
    obtain ⟨h1, h2, h3⟩ := ih _ (s.tagsUndefined_invalidateWord d w false hu)
    refine ⟨(s.invalidateWord_keeps d w false hu).trans h1 (by simp),
      fun n i => (h2 n i).trans (s.dataAt_invalidateWord d w false n i), fun i hi => h3 i ?_⟩
    rw [State.acInForce_invalidateWord]
    by_cases h : i = tagIndex d s.acInForce w
    · left
      rw [h, State.cache_invalidateWord]
      exact Cache.tagAt_setTag_invalid ..
    · rcases hi with hi | ⟨v, hv, rfl⟩
      · left
        rw [State.cache_invalidateWord]
        exact (Cache.tagAt_setTag_ne _ _ _ _ _ _ hu (Ne.symm h)).trans hi
      · rcases List.mem_cons.1 hv with rfl | hv
        · exact absurd rfl h
        · exact .inr ⟨v, hv, rfl⟩

/-- What a refill that ended in BusError leaves of the caches (71_bus_interface.md R546, D43). -/
theorem State.refillFailed_aborted (s : State) (d : CacheSide) (u : FreeUse) (ws : List WordAddr)
    (hu : (s.cache d).tagsUndefined = false) : RefillAborted s (s.refillFailed d u ws) d ws := by
  unfold State.refillFailed
  split
  · obtain ⟨h1, h2, h3⟩ := invalidateWords_spec d ws s hu
    exact .inr ⟨h1, h2, fun w hw => ⟨invalidTag, h3 _ (.inr ⟨w, hw, rfl⟩), rfl⟩⟩
  · exact .inl ⟨rfl, rfl⟩

/-- An aborted refill, seen from an earlier state with the same caches and the same organisation. -/
theorem RefillAborted.congr {s s' t : State} {d : CacheSide} {ws : List WordAddr}
    (h : RefillAborted s' t d ws) (hc : KeepsCaches s s') (ha : s'.acInForce = s.acInForce) :
    RefillAborted s t d ws := by
  obtain ⟨h1, h2⟩ := hc
  have he : ∀ e, s'.cache e = s.cache e := fun e => by cases e <;> assumption
  unfold RefillAborted KeepsOtherEntries KeepsCaches at *
  simpa only [h1, h2, he, ha] using h

/-- The same of the entries an operation keeps. -/
theorem KeepsOtherEntries.congr {s s' t : State} {d : CacheSide} {ws : List WordAddr}
    (h : KeepsOtherEntries s' t d ws) (hc : KeepsCaches s s') (ha : s'.acInForce = s.acInForce) :
    KeepsOtherEntries s t d ws := by
  obtain ⟨h1, h2⟩ := hc
  have he : ∀ e, s'.cache e = s.cache e := fun e => by cases e <;> assumption
  unfold KeepsOtherEntries at *
  simpa only [he, ha] using h

end Sys2Proof.Machine
end

