-- ==== Sys2Proof/Laws/Encoding.lean ====
section
/-! SUPPORT. The fields of an encoded word, and its opcode bits. -/

namespace Sys2Proof

@[simp] theorem opField_iType (op : BitVec 6) (rs rt : Reg) (imm : BitVec 16) :
    opField (iType op rs rt imm) = op := by
  unfold opField iType; apply BitVec.eq_of_getLsbD_eq; intro i hi
  simp only [BitVec.getLsbD_extractLsb', BitVec.getLsbD_append, hi, decide_true, Bool.true_and]
  repeat rw [if_neg (by omega)]
  congr 1; omega

@[simp] theorem rsField_iType (op : BitVec 6) (rs rt : Reg) (imm : BitVec 16) :
    rsField (iType op rs rt imm) = rs := by
  unfold rsField iType; apply BitVec.eq_of_getLsbD_eq; intro i hi
  simp only [BitVec.getLsbD_extractLsb', BitVec.getLsbD_append, hi, decide_true, Bool.true_and]
  repeat (first | rw [if_neg (by omega)] | rw [if_pos (by omega)])
  congr 1; omega

@[simp] theorem rtField_iType (op : BitVec 6) (rs rt : Reg) (imm : BitVec 16) :
    rtField (iType op rs rt imm) = rt := by
  unfold rtField iType; apply BitVec.eq_of_getLsbD_eq; intro i hi
  simp only [BitVec.getLsbD_extractLsb', BitVec.getLsbD_append, hi, decide_true, Bool.true_and]
  repeat (first | rw [if_neg (by omega)] | rw [if_pos (by omega)])
  congr 1; omega

@[simp] theorem immField_iType (op : BitVec 6) (rs rt : Reg) (imm : BitVec 16) :
    immField (iType op rs rt imm) = imm := by
  unfold immField iType; apply BitVec.eq_of_getLsbD_eq; intro i hi
  simp only [BitVec.getLsbD_extractLsb', BitVec.getLsbD_append, hi, decide_true, Bool.true_and]
  repeat (first | rw [if_neg (by omega)] | rw [if_pos (by omega)])
  simp

@[simp] theorem opField_rType (op : BitVec 6) (rs rt rd shamt : Reg) (funct : BitVec 6) :
    opField (rType op rs rt rd shamt funct) = op := by
  unfold opField rType; apply BitVec.eq_of_getLsbD_eq; intro i hi
  simp only [BitVec.getLsbD_extractLsb', BitVec.getLsbD_append, hi, decide_true, Bool.true_and]
  repeat rw [if_neg (by omega)]
  congr 1; omega

@[simp] theorem rsField_rType (op : BitVec 6) (rs rt rd shamt : Reg) (funct : BitVec 6) :
    rsField (rType op rs rt rd shamt funct) = rs := by
  unfold rsField rType; apply BitVec.eq_of_getLsbD_eq; intro i hi
  simp only [BitVec.getLsbD_extractLsb', BitVec.getLsbD_append, hi, decide_true, Bool.true_and]
  repeat (first | rw [if_neg (by omega)] | rw [if_pos (by omega)])
  congr 1; omega

@[simp] theorem rtField_rType (op : BitVec 6) (rs rt rd shamt : Reg) (funct : BitVec 6) :
    rtField (rType op rs rt rd shamt funct) = rt := by
  unfold rtField rType; apply BitVec.eq_of_getLsbD_eq; intro i hi
  simp only [BitVec.getLsbD_extractLsb', BitVec.getLsbD_append, hi, decide_true, Bool.true_and]
  repeat (first | rw [if_neg (by omega)] | rw [if_pos (by omega)])
  congr 1; omega

@[simp] theorem rdField_rType (op : BitVec 6) (rs rt rd shamt : Reg) (funct : BitVec 6) :
    rdField (rType op rs rt rd shamt funct) = rd := by
  unfold rdField rType; apply BitVec.eq_of_getLsbD_eq; intro i hi
  simp only [BitVec.getLsbD_extractLsb', BitVec.getLsbD_append, hi, decide_true, Bool.true_and]
  repeat (first | rw [if_neg (by omega)] | rw [if_pos (by omega)])
  congr 1; omega

@[simp] theorem shamtField_rType (op : BitVec 6) (rs rt rd shamt : Reg) (funct : BitVec 6) :
    shamtField (rType op rs rt rd shamt funct) = shamt := by
  unfold shamtField rType; apply BitVec.eq_of_getLsbD_eq; intro i hi
  simp only [BitVec.getLsbD_extractLsb', BitVec.getLsbD_append, hi, decide_true, Bool.true_and]
  repeat (first | rw [if_neg (by omega)] | rw [if_pos (by omega)])
  congr 1; omega

@[simp] theorem functField_rType (op : BitVec 6) (rs rt rd shamt : Reg) (funct : BitVec 6) :
    functField (rType op rs rt rd shamt funct) = funct := by
  unfold functField rType; apply BitVec.eq_of_getLsbD_eq; intro i hi
  simp only [BitVec.getLsbD_extractLsb', BitVec.getLsbD_append, hi, decide_true, Bool.true_and]
  repeat (first | rw [if_neg (by omega)] | rw [if_pos (by omega)])
  simp

@[simp] theorem opField_jType (op : BitVec 6) (target : BitVec 26) :
    opField (jType op target) = op := by
  unfold opField jType; apply BitVec.eq_of_getLsbD_eq; intro i hi
  simp only [BitVec.getLsbD_extractLsb', BitVec.getLsbD_append, hi, decide_true, Bool.true_and]
  repeat rw [if_neg (by omega)]
  congr 1; omega

@[simp] theorem targetField_jType (op : BitVec 6) (target : BitVec 26) :
    targetField (jType op target) = target := by
  unfold targetField jType; apply BitVec.eq_of_getLsbD_eq; intro i hi
  simp only [BitVec.getLsbD_extractLsb', BitVec.getLsbD_append, hi, decide_true, Bool.true_and]
  repeat (first | rw [if_neg (by omega)] | rw [if_pos (by omega)])
  simp

@[simp] theorem codeField_codeType (code : BitVec 20) (funct : BitVec 6) :
    codeField (codeType code funct) = code := by
  unfold codeField codeType; apply BitVec.eq_of_getLsbD_eq; intro i hi
  simp only [BitVec.getLsbD_extractLsb', BitVec.getLsbD_append, hi, decide_true, Bool.true_and]
  repeat (first | rw [if_neg (by omega)] | rw [if_pos (by omega)])
  congr 1; omega

@[simp] theorem functField_codeType (code : BitVec 20) (funct : BitVec 6) :
    functField (codeType code funct) = funct := by
  unfold functField codeType; apply BitVec.eq_of_getLsbD_eq; intro i hi
  simp only [BitVec.getLsbD_extractLsb', BitVec.getLsbD_append, hi, decide_true, Bool.true_and]
  repeat (first | rw [if_neg (by omega)] | rw [if_pos (by omega)])
  simp

@[simp] theorem opField_codeType (code : BitVec 20) (funct : BitVec 6) : opField (codeType code funct) = 0 := by
  unfold opField codeType; apply BitVec.eq_of_getLsbD_eq; intro i hi
  simp only [BitVec.getLsbD_extractLsb', BitVec.getLsbD_append, hi, decide_true, Bool.true_and]
  repeat rw [if_neg (by omega)]
  simp

/-- The coprocessor-operation bit of a word (30_encoding.md R153) is the high bit of `rs`. -/
theorem getElem_25_rType (op : BitVec 6) (rs rt rd shamt : Reg) (funct : BitVec 6) :
    (rType op rs rt rd shamt funct)[25] = rs[4] := by
  unfold rType; rw [← BitVec.getLsbD_eq_getElem]; simp only [BitVec.getLsbD_append]; rfl

/-- The same of an I-type word. -/
theorem getElem_25_iType (op : BitVec 6) (rs rt : Reg) (imm : BitVec 16) :
    (iType op rs rt imm)[25] = rs[4] := by
  unfold iType; rw [← BitVec.getLsbD_eq_getElem]; simp only [BitVec.getLsbD_append]; rfl

/-- The operation bits of a COP0 operation (30_encoding.md R153) are the low bits of `funct`. -/
theorem cop0Operation_rType (op : BitVec 6) (rs rt rd shamt : Reg) (funct : BitVec 6) :
    (rType op rs rt rd shamt funct).extractLsb' 0 5 = funct.extractLsb' 0 5 := by
  unfold rType; apply BitVec.eq_of_getLsbD_eq; intro i hi
  simp only [BitVec.getLsbD_extractLsb', BitVec.getLsbD_append, hi, decide_true, Bool.true_and]
  repeat (first | rw [if_neg (by omega)] | rw [if_pos (by omega)])

/-! ## Opcode bits -/

theorem iType_mask_op (op : BitVec 6) (rs rt : Reg) (imm : BitVec 16) :
    iType op rs rt imm &&& 0xfc000000#32 = iType op 0 0 0 := by
  unfold iType; apply BitVec.eq_of_getLsbD_eq; intro i hi
  simp only [BitVec.getLsbD_and, BitVec.getLsbD_append]
  interval_cases i <;> simp

theorem iType_mask_op_rt (op : BitVec 6) (rs rt : Reg) (imm : BitVec 16) :
    iType op rs rt imm &&& 0xfc1f0000#32 = iType op 0 rt 0 := by
  unfold iType; apply BitVec.eq_of_getLsbD_eq; intro i hi
  simp only [BitVec.getLsbD_and, BitVec.getLsbD_append]
  interval_cases i <;> simp

theorem iType_mask_op_rs_rt (op : BitVec 6) (rs rt : Reg) (imm : BitVec 16) :
    iType op rs rt imm &&& 0xffff0000#32 = iType op rs rt 0 := by
  unfold iType; apply BitVec.eq_of_getLsbD_eq; intro i hi
  simp only [BitVec.getLsbD_and, BitVec.getLsbD_append]
  interval_cases i <;> simp

theorem rType_mask_op_funct (op : BitVec 6) (rs rt rd shamt : Reg) (funct : BitVec 6) :
    rType op rs rt rd shamt funct &&& 0xfc00003f#32 = rType op 0 0 0 0 funct := by
  unfold rType; apply BitVec.eq_of_getLsbD_eq; intro i hi
  simp only [BitVec.getLsbD_and, BitVec.getLsbD_append]
  interval_cases i <;> simp

theorem rType_mask_op_rs (op : BitVec 6) (rs rt rd shamt : Reg) (funct : BitVec 6) :
    rType op rs rt rd shamt funct &&& 0xffe00000#32 = rType op rs 0 0 0 0 := by
  unfold rType; apply BitVec.eq_of_getLsbD_eq; intro i hi
  simp only [BitVec.getLsbD_and, BitVec.getLsbD_append]
  interval_cases i <;> simp

theorem rType_mask_op_rs_funct (op : BitVec 6) (rs rt rd shamt : Reg) (funct : BitVec 6) :
    rType op rs rt rd shamt funct &&& 0xffe0003f#32 = rType op rs 0 0 0 funct := by
  unfold rType; apply BitVec.eq_of_getLsbD_eq; intro i hi
  simp only [BitVec.getLsbD_and, BitVec.getLsbD_append]
  interval_cases i <;> simp

theorem jType_mask_op (op : BitVec 6) (target : BitVec 26) :
    jType op target &&& 0xfc000000#32 = jType op 0 := by
  unfold jType; apply BitVec.eq_of_getLsbD_eq; intro i hi
  simp only [BitVec.getLsbD_and, BitVec.getLsbD_append]
  interval_cases i <;> simp

theorem codeType_mask (code : BitVec 20) (funct : BitVec 6) :
    codeType code funct &&& 0xfc00003f#32 = codeType 0 funct := by
  unfold codeType; apply BitVec.eq_of_getLsbD_eq; intro i hi
  simp only [BitVec.getLsbD_and, BitVec.getLsbD_append]
  interval_cases i <;> simp

end Sys2Proof
end

