-- ==== Sys2Proof/Laws/Ends.lean ====
section
/-! SUPPORT. The three ways an instruction ends in a next state: it completes, takes an exception, or waits
for the bus; and what each leaves of the hazard windows (70_reset_and_hazards.md R500 to R511). -/

namespace Sys2Proof.Machine

/-- An instruction completes with these hazard windows open: the old FCR31.C (R506), the windows of R507
and R509, and the Config fields and count of R511. It keeps the notes of how instructions were fetched. -/
structure CompletesWith (s : State) (cond : Option Bool) (cp0 cacheCtl : Bool) (old : ConfigReg)
    (window : Nat) (t : State) : Prop where
  pc : t.pc = s.nextPc
  fetchCached : t.seq.fetchCached = s.seq.fetchCached
  prevFetchCached : t.seq.prevFetchCached = s.seq.prevFetchCached
  condPending : t.seq.condPending = cond
  cp0WriteWindow : t.seq.cp0WriteWindow = cp0
  cacheCtlWindow : t.seq.cacheCtlWindow = cacheCtl
  configOld : t.seq.configOld = old
  configWindow : t.seq.configWindow = window

/-- An instruction completes, opens no window, and counts that of Config down. -/
abbrev CompletesPlainly (s : State) : State → Prop :=
  CompletesWith s none false false s.seq.configOld (s.seq.configWindow - 1)

/-- Every next state of an outcome is an exception, a wait, or as `done` says. -/
def Ends (s : State) (done : State → Prop) (o : Result) : Prop :=
  ∀ t, o = .next t → EndsInException s t ∨ EndsInWait s t ∨ done t

/-! ## The shared operations -/

section
variable {s : State} {done : State → Prop}

theorem Ends.refused (r : Refusal) : Ends s done (.refused r) := by intro t e; cases e

theorem Ends.next {t : State} (h : done t) : Ends s done (.next t) := by
  intro t' e; cases e; exact .inr (.inr h)

theorem Ends.raise {u : State} (x : Exc) (h1 : u.pc = s.pc) (h2 : u.nextPc = s.nextPc)
    (h3 : u.seq = s.seq) : Ends s done (u.raise x) := by
  intro t e; cases e; exact .inl ⟨u, x, rfl, h1, h2, h3⟩

theorem Ends.ite {c : Prop} [Decidable c] {o p : Result} (h : Ends s done o) (g : Ends s done p) :
    Ends s done (if c then o else p) := by split; exacts [h, g]

theorem completesPlainly_advance {s u : State} (b : Bool) (target : Option Word)
    (h1 : u.nextPc = s.nextPc) (h2 : u.seq = s.seq) : CompletesPlainly s (u.advance b target) := by
  constructor <;> simp [h2]
  exact h1

theorem CompletesWith.congr {s t v : State} {cond cp0 ctl old n}
    (h : CompletesWith s cond cp0 ctl old n t) (h1 : v.pc = t.pc) (h2 : v.seq = t.seq) :
    CompletesWith s cond cp0 ctl old n v := by
  obtain ⟨a, b, c, d, e, f, g, i⟩ := h
  constructor <;> simp_all

theorem CompletesWith.deferLoad {s t : State} {cond cp0 ctl old n}
    (h : CompletesWith s cond cp0 ctl old n t) (r : Reg) (v : Word) :
    CompletesWith s cond cp0 ctl old n (t.deferLoad r v) := by
  unfold State.deferLoad
  obtain ⟨a, b, c, d, e, f, g, i⟩ := h
  split <;> exact ⟨a, b, c, d, e, f, g, i⟩

theorem CompletesWith.deferFpLoad {s t : State} {cond cp0 ctl old n}
    (h : CompletesWith s cond cp0 ctl old n t) (r : Reg) (v : Word) :
    CompletesWith s cond cp0 ctl old n (t.deferFpLoad r v) := by
  obtain ⟨a, b, c, d, e, f, g, i⟩ := h
  exact ⟨a, b, c, d, e, f, g, i⟩

/-- An instruction with a data access ends as its continuation does, or in the exception or the wait of
the access. -/
theorem Ends.finish {α : Type} {m : Access α} {k : α → State → Result}
    (hx : ∀ x u, m = .exc x u → AccessKeeps s u) (hn : ∀ u, m = .never u → AccessKeeps s u)
    (hk : ∀ a u, m = .ok a u → AccessKeeps s u → Ends s done (k a u))
    (ho : ∀ a u, m = .ok a u → AccessKeeps s u) : Ends s done (m.finish k) := by
  cases m with
  | ok a u => exact hk a u rfl (ho a u rfl)
  | exc x u =>
    obtain ⟨-, -, -, -, -, h1, h2, -, -, -, -, h3, -⟩ := hx x u rfl
    exact .raise x h1 h2 h3
  | never u =>
    intro t e
    cases e
    obtain ⟨-, -, -, -, -, h1, h2, -, -, -, -, h3, -⟩ := hn u rfl
    exact .inr (.inl ⟨u, rfl, h1, h2, h3⟩)
  | refused r => exact .refused r

end

/-! ## Accesses -/

/-- What an access keeps whatever it answers. -/
def AccessAlwaysKeeps {α : Type} (s : State) (m : Access α) : Prop :=
  (∀ a u, m = .ok a u → AccessKeeps s u) ∧ (∀ x u, m = .exc x u → AccessKeeps s u) ∧
    ∀ u, m = .never u → AccessKeeps s u

theorem AccessAlwaysKeeps.bind {α β : Type} {s : State} {m : Access α} {k : α → State → Access β}
    (h : AccessAlwaysKeeps s m) (hk : ∀ a u, m = .ok a u → AccessAlwaysKeeps u (k a u)) :
    AccessAlwaysKeeps s (m.bind k) := by
  cases m with
  | ok a u =>
    have hu := h.1 a u rfl
    obtain ⟨h1, h2, h3⟩ := hk a u rfl
    exact ⟨fun b v e => accessKeeps_trans hu (h1 b v e), fun x v e => accessKeeps_trans hu (h2 x v e),
      fun v e => accessKeeps_trans hu (h3 v e)⟩
  | exc x u => exact ⟨fun _ _ e => (by cases e), fun _ _ e => (by cases e; exact h.2.1 x u rfl),
      fun _ e => by cases e⟩
  | never u => exact ⟨fun _ _ e => (by cases e), fun _ _ e => (by cases e),
      fun _ e => by cases e; exact h.2.2 u rfl⟩
  | refused r => exact ⟨fun _ _ e => (by cases e), fun _ _ e => (by cases e), fun _ e => by cases e⟩

theorem AccessAlwaysKeeps.ok {α : Type} (s : State) (a : α) : AccessAlwaysKeeps s (.ok a s) :=
  ⟨fun _ _ e => (by cases e; exact accessKeeps_refl s), fun _ _ e => (by cases e), fun _ e => by cases e⟩

theorem AccessAlwaysKeeps.finish {α : Type} {s : State} {done : State → Prop} {m : Access α}
    {k : α → State → Result} (h : AccessAlwaysKeeps s m)
    (hk : ∀ a u, u.nextPc = s.nextPc → u.seq = s.seq → Ends s done (k a u)) :
    Ends s done (m.finish k) :=
  .finish h.2.1 h.2.2 (fun a u _ ⟨_, _, _, _, _, _, h2, _, _, _, _, h3, _⟩ => hk a u h2 h3) h.1

theorem State.address_alwaysKeeps (s : State) (va : Word) (k : AccessKind) (b : Bool) :
    AccessAlwaysKeeps s (s.address va k b) := by
  refine ⟨fun p u h => (State.address_keeps h).1, fun x u h => ?_, fun u h => ?_⟩
  · rw [State.address_exc h]; exact accessKeeps_refl s
  · exfalso
    unfold State.address State.translate State.translateMapped State.useTlbEntry at h
    repeat' split at h
    all_goals cases h

theorem State.loadWord_alwaysKeeps (s : State) (w : WordAddr) (c : Bool) :
    AccessAlwaysKeeps s (s.loadWord w c) :=
  ⟨fun _ _ h => (State.loadWord_keeps h).1, fun _ _ h => (State.loadWord_exc h).2.1,
    fun _ h => (State.loadWord_never h).1⟩

/-- A store that does not end left the write buffer as it was. -/
theorem State.postStore_never {s u : State} {e : PendingStore} (h : s.postStore e = .never u) : u = s := by
  unfold State.postStore at h
  split at h <;> cases h
  rfl

theorem State.storeCache_keeps (s : State) (w : WordAddr) (l : Lanes) (v : Word) :
    AccessKeeps s (s.storeCache w l v) := by
  unfold State.storeCache
  simp only
  split
  · exact accessKeeps_fillWord ..
  · split
    · exact accessKeeps_fillWord ..
    · exact accessKeeps_recordParity ..

theorem State.storeWord_alwaysKeeps (s : State) (w : WordAddr) (c : Bool) (l : Lanes) (v : Word) :
    AccessAlwaysKeeps s (s.storeWord w c l v) := by
  refine ⟨fun _ _ h => State.storeWord_keeps h, fun x u h => ?_, fun u h => ?_⟩
  · exfalso
    unfold State.storeWord State.postStore at h
    repeat' split at h
    all_goals cases h
  · unfold State.storeWord at h
    split at h
    · cases h
    · split at h
      · cases h
      · rw [State.postStore_never h]; exact State.storeCache_keeps ..
    · cases h
    · rw [State.postStore_never h]; exact accessKeeps_refl s

theorem State.memRead_alwaysKeeps (s : State) (va : Word) (n : Width) :
    AccessAlwaysKeeps s (s.memRead va n) :=
  (s.address_alwaysKeeps va .load _).bind fun _ t _ =>
    (t.loadWord_alwaysKeeps _ _).bind fun _ u _ => .ok u _

theorem State.memReadLanes_alwaysKeeps (s : State) (va : Word) :
    AccessAlwaysKeeps s (s.memReadLanes va) :=
  (s.address_alwaysKeeps va .load _).bind fun _ t _ => t.loadWord_alwaysKeeps _ _

theorem State.memWrite_alwaysKeeps (s : State) (va : Word) (n : Width) (v : Word) :
    AccessAlwaysKeeps s (s.memWrite va n v) :=
  (s.address_alwaysKeeps va .store _).bind fun _ t _ => t.storeWord_alwaysKeeps _ _ _ _

theorem State.memWriteLanes_alwaysKeeps (s : State) (va : Word) (l : Lanes) (v : Word) :
    AccessAlwaysKeeps s (s.memWriteLanes va l v) :=
  (s.address_alwaysKeeps va .store _).bind fun _ t _ => t.storeWord_alwaysKeeps _ _ _ _

/-! ## The shapes of instruction -/

section
variable (s : State)

theorem State.result_ends (r : Reg) (v : Word) : Ends s (CompletesPlainly s) (s.result r v) :=
  .next ((completesPlainly_advance (s := s) (u := s) false none rfl rfl).congr (by simp) (by simp))

theorem State.resultOrOverflow_ends (o : Bool) (r : Reg) (v : Word) :
    Ends s (CompletesPlainly s) (s.resultOrOverflow o r v) :=
  .ite (.raise _ rfl rfl rfl) (s.result_ends r v)

theorem State.setHiLo_ends (hi lo : Word) : Ends s (CompletesPlainly s) (s.setHiLo hi lo) :=
  .next ((completesPlainly_advance (s := s) (u := s) false none rfl rfl).congr rfl rfl)

theorem State.retire_ends {u : State} (h1 : u.nextPc = s.nextPc) (h2 : u.seq = s.seq) :
    Ends s (CompletesPlainly s) (.next u.retire) :=
  .next (completesPlainly_advance false none h1 h2)

theorem State.transfer_ends (target : Option Word) : Ends s (CompletesPlainly s) (s.transfer target) :=
  .ite (.refused _) (.next (completesPlainly_advance true target rfl rfl))

theorem State.transferLink_ends (link : Reg) (target : Option Word) :
    Ends s (CompletesPlainly s) (s.transferLink link target) :=
  .ite (.refused _) (.next ((completesPlainly_advance (s := s) (u := s) true target rfl rfl).congr
    (by simp) (by simp)))

theorem State.branchCoprocessor_ends (z : BitVec 2) (b : Bool) (offset : BitVec 16) :
    Ends s (CompletesPlainly s) (s.branchCoprocessor z b offset) :=
  .ite (s.transfer_ends _) (.raise _ rfl rfl rfl)

theorem State.load_ends (base rt : Reg) (offset : BitVec 16) (n : Width) (f : Word → Word) :
    Ends s (CompletesPlainly s) (s.load base rt offset n f) :=
  (s.memRead_alwaysKeeps _ n).finish fun _ _ h1 h2 =>
    .next ((completesPlainly_advance false none h1 h2).deferLoad ..)

theorem State.loadPartial_ends (base rt : Reg) (offset : BitVec 16) (f : Nat → Word → Word → Word) :
    Ends s (CompletesPlainly s) (s.loadPartial base rt offset f) :=
  (s.memReadLanes_alwaysKeeps _).finish fun _ _ h1 h2 =>
    .next ((completesPlainly_advance false none h1 h2).deferLoad ..)

theorem State.store_ends (base rt : Reg) (offset : BitVec 16) (n : Width) :
    Ends s (CompletesPlainly s) (s.store base rt offset n) :=
  (s.memWrite_alwaysKeeps _ n _).finish fun _ _ h1 h2 => s.retire_ends h1 h2

theorem State.storePartial_ends (base rt : Reg) (offset : BitVec 16) (f : Nat → Lanes)
    (g : Nat → Word → Word) : Ends s (CompletesPlainly s) (s.storePartial base rt offset f g) :=
  (s.memWriteLanes_alwaysKeeps _ _ _).finish fun _ _ h1 h2 => s.retire_ends h1 h2

variable {s} {done : State → Prop}

theorem Ends.cp0Instruction {k : Result} (h : Ends s done k) : Ends s done (s.cp0Instruction k) :=
  .ite h (.raise _ rfl rfl rfl)

theorem Ends.tlbInstruction {k : Result} (h : Ends s done k) : Ends s done (s.tlbInstruction k) :=
  .cp0Instruction (.ite (.refused _) (.ite (.refused _) h))

theorem Ends.fpaInstruction {k : Result} (h : Ends s done k) : Ends s done (s.fpaInstruction k) :=
  .ite (.raise _ rfl rfl rfl) (.ite (.refused _) h)

theorem Ends.fpaOperation {b : Bool} {k : Result} (h : Ends s done k) :
    Ends s done (s.fpaOperation b k) := .fpaInstruction (.ite h (.refused _))

theorem State.fpTrap_ends (e : FpExceptions) : Ends s (CompletesPlainly s) (s.fpTrap e) :=
  .ite (.raise _ rfl rfl rfl) (s.retire_ends rfl rfl)

theorem State.finishFp_ends (o : FpOutcome) (write : State → Raw → State)
    (hw : ∀ t, ∃ f, write t o.value = { t with fgr := f }) :
    Ends s (CompletesPlainly s) (s.finishFp o write) := by
  refine .ite (s.fpTrap_ends _) (.next ?_)
  obtain ⟨f, hf⟩ := hw (s.recordFp (settleExceptions false s.fcr31.enables o.exceptions)).retire
  rw [hf]
  exact (completesPlainly_advance (s := s)
    (u := s.recordFp (settleExceptions false s.fcr31.enables o.exceptions)) false none rfl rfl).congr
    rfl rfl

theorem State.finishSingle_ends (fd : Reg) (o : FpOutcome) :
    Ends s (CompletesPlainly s) (s.finishSingle fd o) := s.finishFp_ends _ _ fun _ => ⟨_, rfl⟩

theorem State.finishDouble_ends (fd : Reg) (o : FpOutcome) :
    Ends s (CompletesPlainly s) (s.finishDouble fd o) := s.finishFp_ends _ _ fun _ => ⟨_, rfl⟩

/-- A compare completes with the old C pending, or traps (46_fpa_instructions.md R364, R367 b). -/
theorem State.finishCompare_ends (cond : BitVec 4) (r : Relation) :
    Ends s (fun t => ∃ c, (c = none ∨ c = some s.fcr31.c) ∧
      CompletesWith s c false false s.seq.configOld (s.seq.configWindow - 1) t)
      (s.finishCompare cond r) := by
  unfold State.finishCompare
  refine .ite ?_ (.next ⟨_, .inr rfl, ?_⟩)
  · intro t e
    exact (s.fpTrap_ends _ t e).imp_right (.imp_right fun h => ⟨_, .inl rfl, h⟩)
  · obtain ⟨a, b, c, d, e, f, g, i⟩ := completesPlainly_advance (s := s)
      (u := (s.recordFp (compareExceptions cond r)).withFcr31
        { s.fcr31.record (compareExceptions cond r) with c := conditionHolds cond r }) false none rfl rfl
    exact ⟨a, b, c, rfl, e, f, g, i⟩

end

end Sys2Proof.Machine
end

