-- ==== Sys2Proof/Laws/Fpa.lean ====
section
/-! SUPPORT. How an FPA instruction ends: with a result, with a condition, or with a trap. -/

namespace Sys2Proof.Machine

/-- The trap test in the words of the statements (46_fpa_instructions.md R342, 60_exceptions.md R450). -/
theorem fpTraps_iff (s : State) (e : FpExceptions) : fpTraps s.fcr31 e = true ↔ FpTraps s e := by
  unfold fpTraps fpaInterrupt FpTraps
  simp only [Bool.or_eq_true, bne_iff_ne, ne_eq]
  refine or_congr Iff.rfl ⟨fun h => ?_, fun ⟨k, hk, h1, h2⟩ h => ?_⟩
  · by_contra hn
    apply h
    apply BitVec.eq_of_getLsbD_eq
    intro k hk
    have hk' := fun h1 h2 => hn ⟨k, hk, h1, h2⟩
    simp only [BitVec.getLsbD_and, BitVec.getLsbD_extractLsb', hk, decide_true, Bool.true_and,
      Nat.zero_add]
    cases h1 : e.getLsbD k
    · simp
    · simpa using hk' h1
  · have hk' := congrArg (fun x => BitVec.getLsbD x k) h
    simp only [BitVec.getLsbD_and, BitVec.getLsbD_extractLsb', hk, decide_true, Bool.true_and,
      Nat.zero_add, h1, h2] at hk'
    simp at hk'

/-- An operation that traps asserts the interrupt line (60_exceptions.md R450). -/
theorem State.recordFp_fpaLine_of_traps {s : State} {e : FpExceptions} (h : FpTraps s e) :
    (s.recordFp e).fpaLine = true := by
  have : fpaInterrupt (s.recordFp e).fcr31 = true := (fpTraps_iff s e).2 h
  unfold State.fpaLine; rw [this, Bool.or_true]

/-- No operation lowers the interrupt line (60_exceptions.md R450, R455). -/
theorem State.recordFp_fpaLine {s : State} (e : FpExceptions) (h : s.fpaLine = true) :
    (s.recordFp e).fpaLine = true := by
  show (s.fpaLine || _) = true
  rw [h, Bool.true_or]

/-- An instruction that completes with FCR31 replaced, whatever FGRs it writes afterwards. -/
theorem fpResult_of (s : State) (v : Fcr31) (e : FpExceptions) (c : Bool) (regs : State → Prop)
    (t : State) (hv : v = { s.fcr31 with c := c, exceptions := e, sticky := s.fcr31.sticky ||| e.extractLsb' 0 5 })
    (ht : ∃ f q, t = { State.advance { s with fcr31 := v, fpaHeld := s.fpaLine } false none with
      fgr := f, seq := q } ∧
      q.loadPending = none ∧ q.fpLoadPending = none ∧ q.inDelaySlot = false)
    (hr : regs t) : FpResult s e c regs (.next t) := by
  obtain ⟨f, q, rfl, h1, h2, h3⟩ := ht
  refine ⟨_, rfl, hr, by simp [hv], by simp, fun r => ?_, ⟨by simp, by simp⟩,
    ⟨by simp, by simp, by simp, by simp⟩, fun a => State.memoryByte_congr (by simp) ?_ a,
    ⟨by simp, by simp⟩, ⟨by simp, by simp, h3⟩, h1, h2⟩
  · exact State.advance_gprValue { s with fcr31 := v, fpaHeld := s.fpaLine } false none r
  · exact (State.settledMemory_congr rfl rfl).trans
      ((State.advance_settledMemory { s with fcr31 := v, fpaHeld := s.fpaLine } false none).trans
        (State.settledMemory_congr rfl rfl))

/-- A trap (60_exceptions.md R450, R455). -/
theorem State.fpTrap_shape (s : State) (e : FpExceptions) (ht : FpTraps s e) :
    FpTrapResult s e (s.fpTrap e) := by
  have hl := State.recordFp_fpaLine_of_traps ht
  unfold State.fpTrap
  constructor
  · intro h
    simp only [h, if_true]
    refine ⟨?_, _, rfl, by simp [State.fcr31With, Fcr31.record], by simp,
      by simpa [State.fpaLine] using hl, by simp [Exc.badVAddr], by simp [Exc.context],
      by simp [Exc.entryHi]⟩
    obtain ⟨t, h0, h⟩ := State.raise_shape (s.recordFp e) .int
    exact ⟨t, h0, h⟩
  · intro h
    simp only [h, Bool.false_eq_true, if_false]
    exact fpResult_of s (s.fcr31.record e) e s.fcr31.c _ _ rfl
      ⟨_, _, rfl, rfl, rfl, rfl⟩
      ⟨fun r => State.advance_fgrValue (s.recordFp e) false none r, by simpa [State.fpaLine] using hl⟩

/-- A computational or conversion instruction, for any way of writing the result that touches FGRs
only (46_fpa_instructions.md R342). -/
theorem State.finishFp_shape (s : State) (o : FpOutcome) (write : State → Raw → State)
    (regs : State → Prop)
    (hw : ∀ t, ∃ f, write t o.value = { t with fgr := f })
    (hr : ∀ t, (∀ r, t.fgrValue r = s.deliveredFgr r) → regs (write t o.value)) :
    FpOperationResult s o regs (s.finishFp o write) := by
  unfold State.finishFp
  constructor
  · intro hn
    have : fpTraps s.fcr31 (s.fpSettled o) = false := by
      rw [← Bool.not_eq_true, fpTraps_iff]; exact hn
    have h2 : fpTraps s.fcr31 (settleExceptions false s.fcr31.enables o.exceptions) = false := this
    simp only [h2, Bool.false_eq_true, if_false]
    obtain ⟨f, hf⟩ := hw (s.recordFp (s.fpSettled o)).retire
    refine fpResult_of s (s.fcr31.record (s.fpSettled o)) (s.fpSettled o) s.fcr31.c regs _ rfl
      ⟨f, _, hf, rfl, rfl, rfl⟩
      (hr _ fun r => State.advance_fgrValue (s.recordFp (s.fpSettled o)) false none r)
  · intro ht
    have : fpTraps s.fcr31 (s.fpSettled o) = true := (fpTraps_iff ..).2 ht
    have h2 : fpTraps s.fcr31 (settleExceptions false s.fcr31.enables o.exceptions) = true := this
    simp only [h2, if_true]
    exact State.fpTrap_shape s _ ht

theorem succ_ne (r : Reg) : r + 1 ≠ r := by
  intro h
  have := congrArg BitVec.toNat h
  simp at this
  omega

/-- A 32-bit result (46_fpa_instructions.md R344). -/
theorem State.finishSingle_shape (s : State) (fd : Reg) (o : FpOutcome) :
    FpOperationResult s o (SingleIn s fd (o.value.extractLsb' 0 32)) (s.finishSingle fd o) := by
  refine State.finishFp_shape s o _ _ (fun t => ⟨_, rfl⟩) (fun t ht => ⟨?_, fun r h1 h2 => ?_⟩)
  · unfold State.writeSingle
    rw [State.fgrValue_writeFgr, if_neg (fun h => succ_ne fd h.symm), State.fgrValue_writeFgr, if_pos rfl]
  · unfold State.writeSingle
    rw [State.fgrValue_writeFgr, if_neg h2, State.fgrValue_writeFgr, if_neg h1, ht]

/-- A double result (46_fpa_instructions.md R344). -/
theorem State.finishDouble_shape (s : State) (fd : Reg) (o : FpOutcome) :
    FpOperationResult s o (DoubleIn s fd o.value) (s.finishDouble fd o) := by
  refine State.finishFp_shape s o _ _ (fun t => ⟨_, rfl⟩) (fun t ht => ⟨?_, ?_, fun r h1 h2 => ?_⟩)
  · unfold State.writeDouble
    rw [State.fgrValue_writeFgr, if_neg (fun h => succ_ne fd h.symm), State.fgrValue_writeFgr, if_pos rfl]
  · unfold State.writeDouble
    rw [State.fgrValue_writeFgr, if_pos rfl]
  · unfold State.writeDouble
    rw [State.fgrValue_writeFgr, if_neg h2, State.fgrValue_writeFgr, if_neg h1, ht]

/-- A compare (46_fpa_instructions.md R364, R367 b). -/
theorem State.finishCompare_shape (s : State) (cond : BitVec 4) (rel : Relation) :
    FpCompareResult s cond rel (s.finishCompare cond rel) := by
  unfold State.finishCompare
  constructor
  · intro hn
    have h2 : fpTraps s.fcr31 (compareExceptions cond rel) = false := by
      rw [← Bool.not_eq_true, fpTraps_iff]; exact hn
    simp only [h2, Bool.false_eq_true, if_false]
    refine fpResult_of s _ _ _ _ _ rfl ⟨_, _, rfl, rfl, rfl, rfl⟩ ⟨fun r => ?_, rfl⟩
    exact State.advance_fgrValue ((s.recordFp _).withFcr31 _) false none r
  · intro ht
    have h2 : fpTraps s.fcr31 (compareExceptions cond rel) = true := (fpTraps_iff ..).2 ht
    simp only [h2, if_true]
    exact State.fpTrap_shape s _ ht

end Sys2Proof.Machine
end

