-- ==== Sys2Proof/Laws/PerInstr.lean ====
section
/-! SUPPORT. Statements made once per instruction. `OpcodeRow`: the encoded word of the instruction shows
the match bits of its row of the opcode table under the row's mask (30_encoding.md R164). -/

namespace Sys2Proof.Laws

/-- The word of an instruction has its row's opcode bits. -/
def OpcodeRow.Statement (i : Instr) : Prop := encode i &&& opcodeMask i = opcodeMatch i

theorem OpcodeRow.lb (base rt : Reg) (offset : BitVec 16) : OpcodeRow.Statement (.lb base rt offset) :=
  iType_mask_op ..
theorem OpcodeRow.lh (base rt : Reg) (offset : BitVec 16) : OpcodeRow.Statement (.lh base rt offset) :=
  iType_mask_op ..
theorem OpcodeRow.lwl (base rt : Reg) (offset : BitVec 16) : OpcodeRow.Statement (.lwl base rt offset) :=
  iType_mask_op ..
theorem OpcodeRow.lw (base rt : Reg) (offset : BitVec 16) : OpcodeRow.Statement (.lw base rt offset) :=
  iType_mask_op ..
theorem OpcodeRow.lbu (base rt : Reg) (offset : BitVec 16) : OpcodeRow.Statement (.lbu base rt offset) :=
  iType_mask_op ..
theorem OpcodeRow.lhu (base rt : Reg) (offset : BitVec 16) : OpcodeRow.Statement (.lhu base rt offset) :=
  iType_mask_op ..
theorem OpcodeRow.lwr (base rt : Reg) (offset : BitVec 16) : OpcodeRow.Statement (.lwr base rt offset) :=
  iType_mask_op ..
theorem OpcodeRow.sb (base rt : Reg) (offset : BitVec 16) : OpcodeRow.Statement (.sb base rt offset) :=
  iType_mask_op ..
theorem OpcodeRow.sh (base rt : Reg) (offset : BitVec 16) : OpcodeRow.Statement (.sh base rt offset) :=
  iType_mask_op ..
theorem OpcodeRow.swl (base rt : Reg) (offset : BitVec 16) : OpcodeRow.Statement (.swl base rt offset) :=
  iType_mask_op ..
theorem OpcodeRow.sw (base rt : Reg) (offset : BitVec 16) : OpcodeRow.Statement (.sw base rt offset) :=
  iType_mask_op ..
theorem OpcodeRow.swr (base rt : Reg) (offset : BitVec 16) : OpcodeRow.Statement (.swr base rt offset) :=
  iType_mask_op ..
theorem OpcodeRow.addi (rs rt : Reg) (imm : BitVec 16) : OpcodeRow.Statement (.addi rs rt imm) :=
  iType_mask_op ..
theorem OpcodeRow.addiu (rs rt : Reg) (imm : BitVec 16) : OpcodeRow.Statement (.addiu rs rt imm) :=
  iType_mask_op ..
theorem OpcodeRow.slti (rs rt : Reg) (imm : BitVec 16) : OpcodeRow.Statement (.slti rs rt imm) :=
  iType_mask_op ..
theorem OpcodeRow.sltiu (rs rt : Reg) (imm : BitVec 16) : OpcodeRow.Statement (.sltiu rs rt imm) :=
  iType_mask_op ..
theorem OpcodeRow.andi (rs rt : Reg) (imm : BitVec 16) : OpcodeRow.Statement (.andi rs rt imm) :=
  iType_mask_op ..
theorem OpcodeRow.ori (rs rt : Reg) (imm : BitVec 16) : OpcodeRow.Statement (.ori rs rt imm) :=
  iType_mask_op ..
theorem OpcodeRow.xori (rs rt : Reg) (imm : BitVec 16) : OpcodeRow.Statement (.xori rs rt imm) :=
  iType_mask_op ..
theorem OpcodeRow.lui (rt : Reg) (imm : BitVec 16) : OpcodeRow.Statement (.lui rt imm) :=
  iType_mask_op ..
theorem OpcodeRow.add (rs rt rd : Reg) : OpcodeRow.Statement (.add rs rt rd) :=
  rType_mask_op_funct ..
theorem OpcodeRow.addu (rs rt rd : Reg) : OpcodeRow.Statement (.addu rs rt rd) :=
  rType_mask_op_funct ..
theorem OpcodeRow.sub (rs rt rd : Reg) : OpcodeRow.Statement (.sub rs rt rd) :=
  rType_mask_op_funct ..
theorem OpcodeRow.subu (rs rt rd : Reg) : OpcodeRow.Statement (.subu rs rt rd) :=
  rType_mask_op_funct ..
theorem OpcodeRow.and (rs rt rd : Reg) : OpcodeRow.Statement (.and rs rt rd) :=
  rType_mask_op_funct ..
theorem OpcodeRow.or (rs rt rd : Reg) : OpcodeRow.Statement (.or rs rt rd) :=
  rType_mask_op_funct ..
theorem OpcodeRow.xor (rs rt rd : Reg) : OpcodeRow.Statement (.xor rs rt rd) :=
  rType_mask_op_funct ..
theorem OpcodeRow.nor (rs rt rd : Reg) : OpcodeRow.Statement (.nor rs rt rd) :=
  rType_mask_op_funct ..
theorem OpcodeRow.slt (rs rt rd : Reg) : OpcodeRow.Statement (.slt rs rt rd) :=
  rType_mask_op_funct ..
theorem OpcodeRow.sltu (rs rt rd : Reg) : OpcodeRow.Statement (.sltu rs rt rd) :=
  rType_mask_op_funct ..
theorem OpcodeRow.sll (rt rd : Reg) (shamt : BitVec 5) : OpcodeRow.Statement (.sll rt rd shamt) :=
  rType_mask_op_funct ..
theorem OpcodeRow.srl (rt rd : Reg) (shamt : BitVec 5) : OpcodeRow.Statement (.srl rt rd shamt) :=
  rType_mask_op_funct ..
theorem OpcodeRow.sra (rt rd : Reg) (shamt : BitVec 5) : OpcodeRow.Statement (.sra rt rd shamt) :=
  rType_mask_op_funct ..
theorem OpcodeRow.sllv (rs rt rd : Reg) : OpcodeRow.Statement (.sllv rs rt rd) :=
  rType_mask_op_funct ..
theorem OpcodeRow.srlv (rs rt rd : Reg) : OpcodeRow.Statement (.srlv rs rt rd) :=
  rType_mask_op_funct ..
theorem OpcodeRow.srav (rs rt rd : Reg) : OpcodeRow.Statement (.srav rs rt rd) :=
  rType_mask_op_funct ..
theorem OpcodeRow.mult (rs rt : Reg) : OpcodeRow.Statement (.mult rs rt) :=
  rType_mask_op_funct ..
theorem OpcodeRow.multu (rs rt : Reg) : OpcodeRow.Statement (.multu rs rt) :=
  rType_mask_op_funct ..
theorem OpcodeRow.div (rs rt : Reg) : OpcodeRow.Statement (.div rs rt) :=
  rType_mask_op_funct ..
theorem OpcodeRow.divu (rs rt : Reg) : OpcodeRow.Statement (.divu rs rt) :=
  rType_mask_op_funct ..
theorem OpcodeRow.mfhi (rd : Reg) : OpcodeRow.Statement (.mfhi rd) :=
  rType_mask_op_funct ..
theorem OpcodeRow.mthi (rs : Reg) : OpcodeRow.Statement (.mthi rs) :=
  rType_mask_op_funct ..
theorem OpcodeRow.mflo (rd : Reg) : OpcodeRow.Statement (.mflo rd) :=
  rType_mask_op_funct ..
theorem OpcodeRow.mtlo (rs : Reg) : OpcodeRow.Statement (.mtlo rs) :=
  rType_mask_op_funct ..
theorem OpcodeRow.j (target : BitVec 26) : OpcodeRow.Statement (.j target) :=
  jType_mask_op ..
theorem OpcodeRow.jal (target : BitVec 26) : OpcodeRow.Statement (.jal target) :=
  jType_mask_op ..
theorem OpcodeRow.jr (rs : Reg) : OpcodeRow.Statement (.jr rs) :=
  rType_mask_op_funct ..
theorem OpcodeRow.jalr (rs rd : Reg) : OpcodeRow.Statement (.jalr rs rd) :=
  rType_mask_op_funct ..
theorem OpcodeRow.beq (rs rt : Reg) (offset : BitVec 16) : OpcodeRow.Statement (.beq rs rt offset) :=
  iType_mask_op ..
theorem OpcodeRow.bne (rs rt : Reg) (offset : BitVec 16) : OpcodeRow.Statement (.bne rs rt offset) :=
  iType_mask_op ..
theorem OpcodeRow.blez (rs : Reg) (offset : BitVec 16) : OpcodeRow.Statement (.blez rs offset) :=
  iType_mask_op ..
theorem OpcodeRow.bgtz (rs : Reg) (offset : BitVec 16) : OpcodeRow.Statement (.bgtz rs offset) :=
  iType_mask_op ..
theorem OpcodeRow.bltz (rs : Reg) (offset : BitVec 16) : OpcodeRow.Statement (.bltz rs offset) :=
  iType_mask_op_rt ..
theorem OpcodeRow.bgez (rs : Reg) (offset : BitVec 16) : OpcodeRow.Statement (.bgez rs offset) :=
  iType_mask_op_rt ..
theorem OpcodeRow.bltzal (rs : Reg) (offset : BitVec 16) : OpcodeRow.Statement (.bltzal rs offset) :=
  iType_mask_op_rt ..
theorem OpcodeRow.bgezal (rs : Reg) (offset : BitVec 16) : OpcodeRow.Statement (.bgezal rs offset) :=
  iType_mask_op_rt ..
theorem OpcodeRow.syscall (code : BitVec 20) : OpcodeRow.Statement (.syscall code) :=
  codeType_mask ..
theorem OpcodeRow.brk (code : BitVec 20) : OpcodeRow.Statement (.brk code) :=
  codeType_mask ..
theorem OpcodeRow.mfc0 (rt rd : Reg) : OpcodeRow.Statement (.mfc0 rt rd) :=
  rType_mask_op_rs ..
theorem OpcodeRow.mtc0 (rt rd : Reg) : OpcodeRow.Statement (.mtc0 rt rd) :=
  rType_mask_op_rs ..
theorem OpcodeRow.tlbr : OpcodeRow.Statement .tlbr := rfl
theorem OpcodeRow.tlbwi : OpcodeRow.Statement .tlbwi := rfl
theorem OpcodeRow.tlbwr : OpcodeRow.Statement .tlbwr := rfl
theorem OpcodeRow.tlbp : OpcodeRow.Statement .tlbp := rfl
theorem OpcodeRow.rfe : OpcodeRow.Statement .rfe := rfl
theorem OpcodeRow.bc0f (offset : BitVec 16) : OpcodeRow.Statement (.bc0f offset) :=
  iType_mask_op_rs_rt ..
theorem OpcodeRow.bc0t (offset : BitVec 16) : OpcodeRow.Statement (.bc0t offset) :=
  iType_mask_op_rs_rt ..
theorem OpcodeRow.bc2f (offset : BitVec 16) : OpcodeRow.Statement (.bc2f offset) :=
  iType_mask_op_rs_rt ..
theorem OpcodeRow.bc2t (offset : BitVec 16) : OpcodeRow.Statement (.bc2t offset) :=
  iType_mask_op_rs_rt ..
theorem OpcodeRow.bc3f (offset : BitVec 16) : OpcodeRow.Statement (.bc3f offset) :=
  iType_mask_op_rs_rt ..
theorem OpcodeRow.bc3t (offset : BitVec 16) : OpcodeRow.Statement (.bc3t offset) :=
  iType_mask_op_rs_rt ..
theorem OpcodeRow.lwc1 (base ft : Reg) (offset : BitVec 16) : OpcodeRow.Statement (.lwc1 base ft offset) :=
  iType_mask_op ..
theorem OpcodeRow.swc1 (base ft : Reg) (offset : BitVec 16) : OpcodeRow.Statement (.swc1 base ft offset) :=
  iType_mask_op ..
theorem OpcodeRow.mfc1 (rt fs : Reg) : OpcodeRow.Statement (.mfc1 rt fs) :=
  rType_mask_op_rs ..
theorem OpcodeRow.cfc1 (rt fs : Reg) : OpcodeRow.Statement (.cfc1 rt fs) :=
  rType_mask_op_rs ..
theorem OpcodeRow.mtc1 (rt fs : Reg) : OpcodeRow.Statement (.mtc1 rt fs) :=
  rType_mask_op_rs ..
theorem OpcodeRow.ctc1 (rt fs : Reg) : OpcodeRow.Statement (.ctc1 rt fs) :=
  rType_mask_op_rs ..
theorem OpcodeRow.bc1f (offset : BitVec 16) : OpcodeRow.Statement (.bc1f offset) :=
  iType_mask_op_rs_rt ..
theorem OpcodeRow.bc1t (offset : BitVec 16) : OpcodeRow.Statement (.bc1t offset) :=
  iType_mask_op_rs_rt ..
theorem OpcodeRow.addS (ft fs fd : Reg) : OpcodeRow.Statement (.addS ft fs fd) :=
  rType_mask_op_rs_funct ..
theorem OpcodeRow.addD (ft fs fd : Reg) : OpcodeRow.Statement (.addD ft fs fd) :=
  rType_mask_op_rs_funct ..
theorem OpcodeRow.subS (ft fs fd : Reg) : OpcodeRow.Statement (.subS ft fs fd) :=
  rType_mask_op_rs_funct ..
theorem OpcodeRow.subD (ft fs fd : Reg) : OpcodeRow.Statement (.subD ft fs fd) :=
  rType_mask_op_rs_funct ..
theorem OpcodeRow.mulS (ft fs fd : Reg) : OpcodeRow.Statement (.mulS ft fs fd) :=
  rType_mask_op_rs_funct ..
theorem OpcodeRow.mulD (ft fs fd : Reg) : OpcodeRow.Statement (.mulD ft fs fd) :=
  rType_mask_op_rs_funct ..
theorem OpcodeRow.divS (ft fs fd : Reg) : OpcodeRow.Statement (.divS ft fs fd) :=
  rType_mask_op_rs_funct ..
theorem OpcodeRow.divD (ft fs fd : Reg) : OpcodeRow.Statement (.divD ft fs fd) :=
  rType_mask_op_rs_funct ..
theorem OpcodeRow.absS (fs fd : Reg) : OpcodeRow.Statement (.absS fs fd) :=
  rType_mask_op_rs_funct ..
theorem OpcodeRow.absD (fs fd : Reg) : OpcodeRow.Statement (.absD fs fd) :=
  rType_mask_op_rs_funct ..
theorem OpcodeRow.movS (fs fd : Reg) : OpcodeRow.Statement (.movS fs fd) :=
  rType_mask_op_rs_funct ..
theorem OpcodeRow.movD (fs fd : Reg) : OpcodeRow.Statement (.movD fs fd) :=
  rType_mask_op_rs_funct ..
theorem OpcodeRow.negS (fs fd : Reg) : OpcodeRow.Statement (.negS fs fd) :=
  rType_mask_op_rs_funct ..
theorem OpcodeRow.negD (fs fd : Reg) : OpcodeRow.Statement (.negD fs fd) :=
  rType_mask_op_rs_funct ..
theorem OpcodeRow.cvtSD (fs fd : Reg) : OpcodeRow.Statement (.cvtSD fs fd) :=
  rType_mask_op_rs_funct ..
theorem OpcodeRow.cvtSW (fs fd : Reg) : OpcodeRow.Statement (.cvtSW fs fd) :=
  rType_mask_op_rs_funct ..
theorem OpcodeRow.cvtDS (fs fd : Reg) : OpcodeRow.Statement (.cvtDS fs fd) :=
  rType_mask_op_rs_funct ..
theorem OpcodeRow.cvtDW (fs fd : Reg) : OpcodeRow.Statement (.cvtDW fs fd) :=
  rType_mask_op_rs_funct ..
theorem OpcodeRow.cvtWS (fs fd : Reg) : OpcodeRow.Statement (.cvtWS fs fd) :=
  rType_mask_op_rs_funct ..
theorem OpcodeRow.cvtWD (fs fd : Reg) : OpcodeRow.Statement (.cvtWD fs fd) :=
  rType_mask_op_rs_funct ..
theorem OpcodeRow.cFS (ft fs : Reg) : OpcodeRow.Statement (.cFS ft fs) :=
  rType_mask_op_rs_funct ..
theorem OpcodeRow.cFD (ft fs : Reg) : OpcodeRow.Statement (.cFD ft fs) :=
  rType_mask_op_rs_funct ..
theorem OpcodeRow.cUnS (ft fs : Reg) : OpcodeRow.Statement (.cUnS ft fs) :=
  rType_mask_op_rs_funct ..
theorem OpcodeRow.cUnD (ft fs : Reg) : OpcodeRow.Statement (.cUnD ft fs) :=
  rType_mask_op_rs_funct ..
theorem OpcodeRow.cEqS (ft fs : Reg) : OpcodeRow.Statement (.cEqS ft fs) :=
  rType_mask_op_rs_funct ..
theorem OpcodeRow.cEqD (ft fs : Reg) : OpcodeRow.Statement (.cEqD ft fs) :=
  rType_mask_op_rs_funct ..
theorem OpcodeRow.cUeqS (ft fs : Reg) : OpcodeRow.Statement (.cUeqS ft fs) :=
  rType_mask_op_rs_funct ..
theorem OpcodeRow.cUeqD (ft fs : Reg) : OpcodeRow.Statement (.cUeqD ft fs) :=
  rType_mask_op_rs_funct ..
theorem OpcodeRow.cOltS (ft fs : Reg) : OpcodeRow.Statement (.cOltS ft fs) :=
  rType_mask_op_rs_funct ..
theorem OpcodeRow.cOltD (ft fs : Reg) : OpcodeRow.Statement (.cOltD ft fs) :=
  rType_mask_op_rs_funct ..
theorem OpcodeRow.cUltS (ft fs : Reg) : OpcodeRow.Statement (.cUltS ft fs) :=
  rType_mask_op_rs_funct ..
theorem OpcodeRow.cUltD (ft fs : Reg) : OpcodeRow.Statement (.cUltD ft fs) :=
  rType_mask_op_rs_funct ..
theorem OpcodeRow.cOleS (ft fs : Reg) : OpcodeRow.Statement (.cOleS ft fs) :=
  rType_mask_op_rs_funct ..
theorem OpcodeRow.cOleD (ft fs : Reg) : OpcodeRow.Statement (.cOleD ft fs) :=
  rType_mask_op_rs_funct ..
theorem OpcodeRow.cUleS (ft fs : Reg) : OpcodeRow.Statement (.cUleS ft fs) :=
  rType_mask_op_rs_funct ..
theorem OpcodeRow.cUleD (ft fs : Reg) : OpcodeRow.Statement (.cUleD ft fs) :=
  rType_mask_op_rs_funct ..
theorem OpcodeRow.cSfS (ft fs : Reg) : OpcodeRow.Statement (.cSfS ft fs) :=
  rType_mask_op_rs_funct ..
theorem OpcodeRow.cSfD (ft fs : Reg) : OpcodeRow.Statement (.cSfD ft fs) :=
  rType_mask_op_rs_funct ..
theorem OpcodeRow.cNgleS (ft fs : Reg) : OpcodeRow.Statement (.cNgleS ft fs) :=
  rType_mask_op_rs_funct ..
theorem OpcodeRow.cNgleD (ft fs : Reg) : OpcodeRow.Statement (.cNgleD ft fs) :=
  rType_mask_op_rs_funct ..
theorem OpcodeRow.cSeqS (ft fs : Reg) : OpcodeRow.Statement (.cSeqS ft fs) :=
  rType_mask_op_rs_funct ..
theorem OpcodeRow.cSeqD (ft fs : Reg) : OpcodeRow.Statement (.cSeqD ft fs) :=
  rType_mask_op_rs_funct ..
theorem OpcodeRow.cNglS (ft fs : Reg) : OpcodeRow.Statement (.cNglS ft fs) :=
  rType_mask_op_rs_funct ..
theorem OpcodeRow.cNglD (ft fs : Reg) : OpcodeRow.Statement (.cNglD ft fs) :=
  rType_mask_op_rs_funct ..
theorem OpcodeRow.cLtS (ft fs : Reg) : OpcodeRow.Statement (.cLtS ft fs) :=
  rType_mask_op_rs_funct ..
theorem OpcodeRow.cLtD (ft fs : Reg) : OpcodeRow.Statement (.cLtD ft fs) :=
  rType_mask_op_rs_funct ..
theorem OpcodeRow.cNgeS (ft fs : Reg) : OpcodeRow.Statement (.cNgeS ft fs) :=
  rType_mask_op_rs_funct ..
theorem OpcodeRow.cNgeD (ft fs : Reg) : OpcodeRow.Statement (.cNgeD ft fs) :=
  rType_mask_op_rs_funct ..
theorem OpcodeRow.cLeS (ft fs : Reg) : OpcodeRow.Statement (.cLeS ft fs) :=
  rType_mask_op_rs_funct ..
theorem OpcodeRow.cLeD (ft fs : Reg) : OpcodeRow.Statement (.cLeD ft fs) :=
  rType_mask_op_rs_funct ..
theorem OpcodeRow.cNgtS (ft fs : Reg) : OpcodeRow.Statement (.cNgtS ft fs) :=
  rType_mask_op_rs_funct ..
theorem OpcodeRow.cNgtD (ft fs : Reg) : OpcodeRow.Statement (.cNgtD ft fs) :=
  rType_mask_op_rs_funct ..

end Sys2Proof.Laws
end

