-- ==== Sys2Proof/Tests/Slice0.lean ====
section
/-! SUPPORT. Tests: ill-formed terms, one word of every instruction, the spec's worked examples, and for
every statement with hypotheses a state that meets them. -/

namespace Sys2Proof.Tests

open Sys2Proof Sys2Proof.Machine

/-! ## WellFormed refuses ill-formed operands (46_fpa_instructions.md R343, R349, R350) -/

theorem test_wellFormed_odd_registers :
    (Instr.addS 1 2 4).wellFormed = false ∧ (Instr.addS 2 3 4).wellFormed = false ∧
    (Instr.divD 2 4 5).wellFormed = false ∧ (Instr.cvtWD 1 2).wellFormed = false ∧
    (Instr.movS 2 31).wellFormed = false ∧ (Instr.cEqS 1 2).wellFormed = false ∧
    (Instr.cNgtD 2 1).wellFormed = false ∧ (Instr.addS 2 4 30).wellFormed = true := by decide

theorem test_wellFormed_control_registers :
    (Instr.cfc1 1 1).wellFormed = false ∧ (Instr.ctc1 1 30).wellFormed = false ∧
    (Instr.cfc1 1 0).wellFormed = true ∧ (Instr.ctc1 1 31).wellFormed = true := by decide

/-! ## Decoding: words written out from the spec's encodings -/

/-- 30_encoding.md R148, R158. -/
theorem test_decode_loads_and_stores :
    decode 0b100000_00101_00110_1000000000000100 = .ok (.lb 5 6 0x8004) ∧
    decode 0b100001_00101_00110_1000000000000100 = .ok (.lh 5 6 0x8004) ∧
    decode 0b100010_00101_00110_1000000000000100 = .ok (.lwl 5 6 0x8004) ∧
    decode 0b100011_00101_00110_1000000000000100 = .ok (.lw 5 6 0x8004) ∧
    decode 0b100100_00101_00110_1000000000000100 = .ok (.lbu 5 6 0x8004) ∧
    decode 0b100101_00101_00110_1000000000000100 = .ok (.lhu 5 6 0x8004) ∧
    decode 0b100110_00101_00110_1000000000000100 = .ok (.lwr 5 6 0x8004) ∧
    decode 0b101000_00101_00110_1000000000000100 = .ok (.sb 5 6 0x8004) ∧
    decode 0b101001_00101_00110_1000000000000100 = .ok (.sh 5 6 0x8004) ∧
    decode 0b101010_00101_00110_1000000000000100 = .ok (.swl 5 6 0x8004) ∧
    decode 0b101011_00101_00110_1000000000000100 = .ok (.sw 5 6 0x8004) ∧
    decode 0b101110_00101_00110_1000000000000100 = .ok (.swr 5 6 0x8004) ∧
    decode 0b110001_00101_00110_1000000000000100 = .ok (.lwc1 5 6 0x8004) ∧
    decode 0b111001_00101_00110_1000000000000100 = .ok (.swc1 5 6 0x8004) := by
  decide

/-- 30_encoding.md R148. -/
theorem test_decode_alu_immediate :
    decode 0b001000_00001_00010_1111111111111110 = .ok (.addi 1 2 0xfffe) ∧
    decode 0b001001_00001_00010_1111111111111110 = .ok (.addiu 1 2 0xfffe) ∧
    decode 0b001010_00001_00010_1111111111111110 = .ok (.slti 1 2 0xfffe) ∧
    decode 0b001011_00001_00010_1111111111111110 = .ok (.sltiu 1 2 0xfffe) ∧
    decode 0b001100_00001_00010_1111111111111110 = .ok (.andi 1 2 0xfffe) ∧
    decode 0b001101_00001_00010_1111111111111110 = .ok (.ori 1 2 0xfffe) ∧
    decode 0b001110_00001_00010_1111111111111110 = .ok (.xori 1 2 0xfffe) ∧
    decode 0b001111_00000_00010_1111111111111110 = .ok (.lui 2 0xfffe) := by
  decide

/-- 30_encoding.md R149. -/
theorem test_decode_register_operations :
    decode 0b000000_00001_00010_00011_00000_100000 = .ok (.add 1 2 3) ∧
    decode 0b000000_00001_00010_00011_00000_100001 = .ok (.addu 1 2 3) ∧
    decode 0b000000_00001_00010_00011_00000_100010 = .ok (.sub 1 2 3) ∧
    decode 0b000000_00001_00010_00011_00000_100011 = .ok (.subu 1 2 3) ∧
    decode 0b000000_00001_00010_00011_00000_100100 = .ok (.and 1 2 3) ∧
    decode 0b000000_00001_00010_00011_00000_100101 = .ok (.or 1 2 3) ∧
    decode 0b000000_00001_00010_00011_00000_100110 = .ok (.xor 1 2 3) ∧
    decode 0b000000_00001_00010_00011_00000_100111 = .ok (.nor 1 2 3) ∧
    decode 0b000000_00001_00010_00011_00000_101010 = .ok (.slt 1 2 3) ∧
    decode 0b000000_00001_00010_00011_00000_101011 = .ok (.sltu 1 2 3) ∧
    decode 0b000000_00001_00010_00011_00000_000100 = .ok (.sllv 1 2 3) ∧
    decode 0b000000_00001_00010_00011_00000_000110 = .ok (.srlv 1 2 3) ∧
    decode 0b000000_00001_00010_00011_00000_000111 = .ok (.srav 1 2 3) := by
  decide

/-- 30_encoding.md R149. -/
theorem test_decode_shifts_and_hi_lo :
    decode 0b000000_00000_00010_00011_00100_000000 = .ok (.sll 2 3 4) ∧
    decode 0b000000_00000_00010_00011_00100_000010 = .ok (.srl 2 3 4) ∧
    decode 0b000000_00000_00010_00011_00100_000011 = .ok (.sra 2 3 4) ∧
    decode 0b000000_00001_00010_00000_00000_011000 = .ok (.mult 1 2) ∧
    decode 0b000000_00001_00010_00000_00000_011001 = .ok (.multu 1 2) ∧
    decode 0b000000_00001_00010_00000_00000_011010 = .ok (.div 1 2) ∧
    decode 0b000000_00001_00010_00000_00000_011011 = .ok (.divu 1 2) ∧
    decode 0b000000_00000_00000_00011_00000_010000 = .ok (.mfhi 3) ∧
    decode 0b000000_00001_00000_00000_00000_010001 = .ok (.mthi 1) ∧
    decode 0b000000_00000_00000_00011_00000_010010 = .ok (.mflo 3) ∧
    decode 0b000000_00001_00000_00000_00000_010011 = .ok (.mtlo 1) := by
  decide

/-- 30_encoding.md R148, R149, R150. -/
theorem test_decode_jumps_and_branches :
    decode 0b000010_10000000000000000000000101 = .ok (.j 0x2000005) ∧
    decode 0b000011_10000000000000000000000101 = .ok (.jal 0x2000005) ∧
    decode 0b000000_00001_00000_00000_00000_001000 = .ok (.jr 1) ∧
    decode 0b000000_00001_00000_00011_00000_001001 = .ok (.jalr 1 3) ∧
    decode 0b000100_00001_00010_1000000000000001 = .ok (.beq 1 2 0x8001) ∧
    decode 0b000101_00001_00010_1000000000000001 = .ok (.bne 1 2 0x8001) ∧
    decode 0b000110_00001_00000_1000000000000001 = .ok (.blez 1 0x8001) ∧
    decode 0b000111_00001_00000_1000000000000001 = .ok (.bgtz 1 0x8001) ∧
    decode 0b000001_00001_00000_1000000000000001 = .ok (.bltz 1 0x8001) ∧
    decode 0b000001_00001_00001_1000000000000001 = .ok (.bgez 1 0x8001) ∧
    decode 0b000001_00001_10000_1000000000000001 = .ok (.bltzal 1 0x8001) ∧
    decode 0b000001_00001_10001_1000000000000001 = .ok (.bgezal 1 0x8001) := by
  decide

/-- 30_encoding.md R149, R151, R153, R157. -/
theorem test_decode_system_and_cp0 :
    decode 0b000000_10000000000000000101_001100 = .ok (.syscall 0x80005) ∧
    decode 0b000000_10000000000000000101_001101 = .ok (.brk 0x80005) ∧
    decode 0b010000_00000_00010_00011_00000_000000 = .ok (.mfc0 2 3) ∧
    decode 0b010000_00100_00010_00011_00000_000000 = .ok (.mtc0 2 3) ∧
    decode 0b010000_10000_00000_00000_00000_000001 = .ok .tlbr ∧
    decode 0b010000_10000_00000_00000_00000_000010 = .ok .tlbwi ∧
    decode 0b010000_10000_00000_00000_00000_000110 = .ok .tlbwr ∧
    decode 0b010000_10000_00000_00000_00000_001000 = .ok .tlbp ∧
    decode 0b010000_10000_00000_00000_00000_010000 = .ok .rfe := by
  decide

/-- 30_encoding.md R152. -/
theorem test_decode_coprocessor_branches :
    decode 0b010000_01000_00000_1000000000000001 = .ok (.bc0f 0x8001) ∧
    decode 0b010000_01000_00001_1000000000000001 = .ok (.bc0t 0x8001) ∧
    decode 0b010001_01000_00000_1000000000000001 = .ok (.bc1f 0x8001) ∧
    decode 0b010001_01000_00001_1000000000000001 = .ok (.bc1t 0x8001) ∧
    decode 0b010010_01000_00000_1000000000000001 = .ok (.bc2f 0x8001) ∧
    decode 0b010010_01000_00001_1000000000000001 = .ok (.bc2t 0x8001) ∧
    decode 0b010011_01000_00000_1000000000000001 = .ok (.bc3f 0x8001) ∧
    decode 0b010011_01000_00001_1000000000000001 = .ok (.bc3t 0x8001) := by
  decide

/-- 30_encoding.md R151. -/
theorem test_decode_fpa_moves :
    decode 0b010001_00000_00010_11111_00000_000000 = .ok (.mfc1 2 31) ∧
    decode 0b010001_00010_00010_11111_00000_000000 = .ok (.cfc1 2 31) ∧
    decode 0b010001_00100_00010_11111_00000_000000 = .ok (.mtc1 2 31) ∧
    decode 0b010001_00110_00010_11111_00000_000000 = .ok (.ctc1 2 31) := by
  decide

/-- 30_encoding.md R154, 45_fpa_formats.md R322. -/
theorem test_decode_fpa_arithmetic :
    decode 0b010001_10000_00010_00100_00110_000000 = .ok (.addS 2 4 6) ∧
    decode 0b010001_10001_00010_00100_00110_000000 = .ok (.addD 2 4 6) ∧
    decode 0b010001_10000_00010_00100_00110_000001 = .ok (.subS 2 4 6) ∧
    decode 0b010001_10001_00010_00100_00110_000001 = .ok (.subD 2 4 6) ∧
    decode 0b010001_10000_00010_00100_00110_000010 = .ok (.mulS 2 4 6) ∧
    decode 0b010001_10001_00010_00100_00110_000010 = .ok (.mulD 2 4 6) ∧
    decode 0b010001_10000_00010_00100_00110_000011 = .ok (.divS 2 4 6) ∧
    decode 0b010001_10001_00010_00100_00110_000011 = .ok (.divD 2 4 6) ∧
    decode 0b010001_10000_00000_00100_00110_000101 = .ok (.absS 4 6) ∧
    decode 0b010001_10001_00000_00100_00110_000101 = .ok (.absD 4 6) ∧
    decode 0b010001_10000_00000_00100_00110_000110 = .ok (.movS 4 6) ∧
    decode 0b010001_10001_00000_00100_00110_000110 = .ok (.movD 4 6) ∧
    decode 0b010001_10000_00000_00100_00110_000111 = .ok (.negS 4 6) ∧
    decode 0b010001_10001_00000_00100_00110_000111 = .ok (.negD 4 6) ∧
    decode 0b010001_10001_00000_00100_00110_100000 = .ok (.cvtSD 4 6) ∧
    decode 0b010001_10100_00000_00100_00110_100000 = .ok (.cvtSW 4 6) ∧
    decode 0b010001_10000_00000_00100_00110_100001 = .ok (.cvtDS 4 6) ∧
    decode 0b010001_10100_00000_00100_00110_100001 = .ok (.cvtDW 4 6) ∧
    decode 0b010001_10000_00000_00100_00110_100100 = .ok (.cvtWS 4 6) ∧
    decode 0b010001_10001_00000_00100_00110_100100 = .ok (.cvtWD 4 6) := by
  decide

/-- 30_encoding.md R154, 45_fpa_formats.md R322. -/
theorem test_decode_fpa_compares_single :
    decode 0b010001_10000_00010_00100_00000_110000 = .ok (.cFS 2 4) ∧
    decode 0b010001_10000_00010_00100_00000_110001 = .ok (.cUnS 2 4) ∧
    decode 0b010001_10000_00010_00100_00000_110010 = .ok (.cEqS 2 4) ∧
    decode 0b010001_10000_00010_00100_00000_110011 = .ok (.cUeqS 2 4) ∧
    decode 0b010001_10000_00010_00100_00000_110100 = .ok (.cOltS 2 4) ∧
    decode 0b010001_10000_00010_00100_00000_110101 = .ok (.cUltS 2 4) ∧
    decode 0b010001_10000_00010_00100_00000_110110 = .ok (.cOleS 2 4) ∧
    decode 0b010001_10000_00010_00100_00000_110111 = .ok (.cUleS 2 4) ∧
    decode 0b010001_10000_00010_00100_00000_111000 = .ok (.cSfS 2 4) ∧
    decode 0b010001_10000_00010_00100_00000_111001 = .ok (.cNgleS 2 4) ∧
    decode 0b010001_10000_00010_00100_00000_111010 = .ok (.cSeqS 2 4) ∧
    decode 0b010001_10000_00010_00100_00000_111011 = .ok (.cNglS 2 4) ∧
    decode 0b010001_10000_00010_00100_00000_111100 = .ok (.cLtS 2 4) ∧
    decode 0b010001_10000_00010_00100_00000_111101 = .ok (.cNgeS 2 4) ∧
    decode 0b010001_10000_00010_00100_00000_111110 = .ok (.cLeS 2 4) ∧
    decode 0b010001_10000_00010_00100_00000_111111 = .ok (.cNgtS 2 4) := by
  decide

/-- 30_encoding.md R154, 45_fpa_formats.md R322. -/
theorem test_decode_fpa_compares_double :
    decode 0b010001_10001_00010_00100_00000_110000 = .ok (.cFD 2 4) ∧
    decode 0b010001_10001_00010_00100_00000_110001 = .ok (.cUnD 2 4) ∧
    decode 0b010001_10001_00010_00100_00000_110010 = .ok (.cEqD 2 4) ∧
    decode 0b010001_10001_00010_00100_00000_110011 = .ok (.cUeqD 2 4) ∧
    decode 0b010001_10001_00010_00100_00000_110100 = .ok (.cOltD 2 4) ∧
    decode 0b010001_10001_00010_00100_00000_110101 = .ok (.cUltD 2 4) ∧
    decode 0b010001_10001_00010_00100_00000_110110 = .ok (.cOleD 2 4) ∧
    decode 0b010001_10001_00010_00100_00000_110111 = .ok (.cUleD 2 4) ∧
    decode 0b010001_10001_00010_00100_00000_111000 = .ok (.cSfD 2 4) ∧
    decode 0b010001_10001_00010_00100_00000_111001 = .ok (.cNgleD 2 4) ∧
    decode 0b010001_10001_00010_00100_00000_111010 = .ok (.cSeqD 2 4) ∧
    decode 0b010001_10001_00010_00100_00000_111011 = .ok (.cNglD 2 4) ∧
    decode 0b010001_10001_00010_00100_00000_111100 = .ok (.cLtD 2 4) ∧
    decode 0b010001_10001_00010_00100_00000_111101 = .ok (.cNgeD 2 4) ∧
    decode 0b010001_10001_00010_00100_00000_111110 = .ok (.cLeD 2 4) ∧
    decode 0b010001_10001_00010_00100_00000_111111 = .ok (.cNgtD 2 4) := by
  decide

/-! ## Helpers -/

/-- A part with the other parameters of the reset part. -/
def partOf (v : Variant) : Chip := { Config.resetChip with variant := v }

/-- A part right after reset, Kernel mode, all six mode pins high. -/
def boot (v : Variant) : State := State.resetOf (partOf v) Config.resetMode

/-- At another address, outside a delay slot. -/
def at_ (pc : Word) (s : State) : State := { s with pc := pc, nextPc := pc + 4 }

/-- With other pins and bus answers, now and at the next step. -/
def fed (b : BusInput) (s : State) : State := { s with env := b, inputs := [b] }

/-- With Status written as MTC0 writes it. -/
def stat (v : Word) (s : State) : State := s.withStatus (statusOfWrite s.cp0.status v)

/-- With two general registers set. -/
def regs (a b : Word) (s : State) : State := (s.writeReg 1 a).writeReg 2 b

/-- In a delay slot. -/
def slot (s : State) : State := s.withSeq { s.seq with inDelaySlot := true }

/-- What a function of the next state gives; `none` at a stop. -/
def after {α : Type} (o : Result) (f : State → α) : Option α :=
  match o with
  | .next t => some (f t)
  | .fault _ => none
  | .refused _ => none

/-- The outcome is a next state. -/
def isNext (o : Result) : Bool :=
  match o with
  | .next _ => true
  | .fault _ => false
  | .refused _ => false

/-- The access answers. -/
def isOk {α : Type} (m : Access α) : Bool :=
  match m with
  | .ok _ _ => true
  | _ => false

theorem exists_of_isNext {o : Result} (h : isNext o = true) : ∃ t, o = .next t := by
  cases o with
  | next t => exact ⟨t, rfl⟩
  | fault f => cases h
  | refused r => cases h

theorem exists_of_isOk {α : Type} {m : Access α} (h : isOk m = true) : ∃ a t, m = .ok a t := by
  cases m with
  | ok a t => exact ⟨a, t, rfl⟩
  | exc x t => cases h
  | never t => cases h
  | refused r => cases h

/-! ## Hypotheses that can be met -/

/-- A state at the bounds of the invariant: four pending stores, Random 8, a window of ten, a pending
load. -/
def edge : State :=
  let s := boot .r3081
  let e : PendingStore := { addr := 0x3fffffff, lanes := 0xf, data := 1 }
  { s with
    cp0 := { s.cp0 with random := 8 }
    writeBuffer := [e, e, e, e]
    seq := { s.seq with configWindow := 10, loadPending := some (31, 5) } }

theorem witness_stepKeepsInvariant : ∃ t, Inv edge ∧ step edge = .next t := by
  obtain ⟨t, h⟩ := exists_of_isNext (o := step edge) (by decide)
  refine ⟨t, ⟨by decide, by decide, by decide, by decide, by decide, ?_, by decide, rfl⟩, h⟩
  intro r v h; cases h; decide

theorem witness_decodeMatchesOpcodeTable : decode 0x03ffffff = .error .reservedInstruction ∧
    decode 0x000fffc0 = .ok (.sll 15 31 31) ∧ (0x03efffc0 : Word) &&& 0xfc00003f = 0 ∧
    decode 0x03efffc0 = .ok (.sll 15 31 31) ∧ (0x0022ffd8 : Word) &&& 0xfc00003f = 0x18 ∧
    decode 0x0022ffd8 = .ok (.mult 1 2) := by decide

/-- The coprocessors usable as the high digit says. -/
def withCops (v : Word) : State := stat v (boot .r3081)

theorem witness_reservedWords :
    ([20, 31, 39, 44, 45, 47, 52, 55, 60, 63].all fun n =>
      (opField (BitVec.ofNat 32 (n * 2 ^ 26))).toNat == n) = true ∧
    (boot .r3081).usable 2 = false ∧ opField 0x49200000 = (0b0100#4) ++ (2#2) ∧
    decode 0x49200000 = .error (.undefinedCoprocessorOp 2) ∧ (withCops 0x40400000).usable 2 = true ∧
    opField 0xc8000000 = (0b1100#4) ++ (2#2) ∧ opField 0xe0000000 = (0b1110#4) ++ (0#2) ∧
    opField 0x46000004 = 0x11 ∧ (0x46000004#32).getLsbD 25 = true ∧
    decode 0x46000004 = .error .reservedFpaOp ∧ opField 0x04020000 = 1 ∧ rtField 0x04020000 = 2 ∧
    functField 0x03ffffff = 0x3f ∧ opField 0x03ffffff = 0 := by decide

/-- A word with a reserved major opcode at pc. -/
theorem witness_reservedWords_step : ∃ t w u,
    ((boot .r3081).placeFetchWord 0xfc000000).sample.env.reset = none ∧
    ((boot .r3081).placeFetchWord 0xfc000000).sample.serveBus = .ok t ∧ t.halting = false ∧
    t.takesInterrupt = false ∧ t.fetchWord = .ok w u ∧ decode w = .error .reservedInstruction :=
  ⟨_, _, _, rfl, rfl, rfl, by decide, rfl, by decide⟩

theorem witness_stepRunsDecodedInstruction : ∃ t u w i,
    (boot .r3081E).sample.env.reset = none ∧ (boot .r3081E).mode.triState = false ∧
    (boot .r3081E).seq.waiting = false ∧ (boot .r3081E).sample.env.dataEvents = [] ∧
    (boot .r3081E).sample.serveBus = .ok t ∧ t.halting = false ∧ t.takesInterrupt = false ∧
    t.fetchWord = .ok w u ∧ decode w = .ok i :=
  ⟨_, _, _, _, rfl, rfl, rfl, rfl, rfl, rfl, rfl, rfl, rfl⟩

/-- The three ways a fetch does not give a word, each in a state a step comes to. -/
theorem witness_stepRunsDecodedInstruction_fetch :
    (∃ t u, (fed { quietInput with fetchReply := .busError } (boot .r3081)).sample.serveBus = .ok t ∧
      t.halting = false ∧ t.takesInterrupt = false ∧ t.fetchWord = .exc .ibe u) ∧
    (∃ t u, (fed { quietInput with fetchReply := .noAnswer } (boot .r3081)).sample.serveBus = .ok t ∧
      t.takesInterrupt = false ∧ t.fetchWord = .never u) ∧
    ∃ t, (at_ 0xbfc00001 (boot .r3081)).sample.serveBus = .ok t ∧ t.takesInterrupt = false ∧
      t.address t.pc .fetch (t.pc.extractLsb' 0 2 == 0) = .exc (.adel 0xbfc00001) t :=
  ⟨⟨_, _, rfl, rfl, rfl, rfl⟩, ⟨_, _, rfl, rfl, rfl⟩, ⟨_, rfl, rfl, rfl⟩⟩

/-- kseg0, the word at pc in the instruction cache. -/
def warm : State :=
  let s := at_ 0x80001000 (boot .r3081)
  s.fillWord .instr (wordAddress 0x1000) 0x24010001 false

theorem witness_fetchReadsMemory :
    (boot .r3081).cp0.status.kuc = false ∧ (boot .r3081).pc.extractLsb' 0 2 = 0 ∧
    (boot .r3081).pc.extractLsb' 29 3 = 5 ∧ (boot .r3081).env.fetchReply = .memory ∧
    (fed { quietInput with fetchReply := .busError } (boot .r3081)).env.fetchReply = .busError ∧
    warm.cp0.status.kuc = false ∧ warm.pc.extractLsb' 29 3 = 4 ∧ warm.seq.cacheCtlWindow = false ∧
    (warm.withSeq { warm.seq with cacheCtlWindow := true }).seq.cacheCtlWindow = true ∧
    warm.awaitingFlush = false ∧ (warm.fetchLookup (wordAddress 0x1000)).hit = true ∧
    ((at_ 0x80001000 (boot .r3081)).fetchLookup (wordAddress 0x1000)).hit = false ∧
    (boot .r3081).seq.busBlocked = false ∧
    (boot .r3081).storePending (wordAddress (unmappedAddress 0xbfc00000)) = false ∧
    ((boot .r3081).post ⟨wordAddress (unmappedAddress 0xbfc00000), 1, 0⟩).storePending
      (wordAddress (unmappedAddress 0xbfc00000)) = true ∧
    (fed { quietInput with fetchReply := .noAnswer } (boot .r3081)).env.fetchReply = .noAnswer := by
  decide

/-- Both caches left to be flushed by a change of Config.AC. -/
def unflushed (s : State) : State := s.afterAcChange true

/-- A User-mode fetch on a base part, a fetch before the flushes, a device, a dead write. -/
theorem witness_fetchReadsMemory_translated :
    (∃ u, (at_ 0x1000 (stat 0x00400002 (boot .r3081))).address 0x1000 .fetch true = .ok (0x40001000, true) u ∧
      u.seq.cacheCtlWindow = false ∧ u.awaitingFlush = false ∧
      (u.fetchLookup (wordAddress 0x40001000)).hit = false ∧
      u.storePending (wordAddress 0x40001000) = false ∧ u.seq.busBlocked = false) ∧
    (unflushed (at_ 0x80001000 (boot .r3081))).seq.cacheCtlWindow = false ∧
    (unflushed (at_ 0x80001000 (boot .r3081))).awaitingFlush = true ∧
    (unflushed (at_ 0x80001000 (boot .r3081))).address 0x80001000 .fetch true =
      .ok (0x1000, true) (unflushed (at_ 0x80001000 (boot .r3081))) ∧
    (fed { quietInput with fetchReply := .device 1 2 3 4 } (boot .r3081)).env.fetchReply =
      .device 1 2 3 4 ∧ ((boot .r3081).post ⟨0, 1, 0⟩).blockBus.seq.busBlocked = true :=
  ⟨⟨at_ 0x1000 (stat 0x00400002 (boot .r3081)), rfl, rfl, rfl, by decide, rfl, rfl⟩, rfl, rfl, rfl, rfl,
    rfl⟩

/-- Interrupts enabled, Int(0) asserted and unmasked. -/
def pending : State := fed { quietInput with int := 1 } (stat 0x00400401 (boot .r3081E))

theorem witness_stepTakesInterrupt : ∃ t, pending.sample.env.reset = none ∧
    pending.mode.triState = false ∧ pending.seq.waiting = false ∧ pending.sample.serveBus = .ok t ∧ t.halting = false ∧
    t.cp0.status.iec = true ∧
    (causeWord t.cp0.cause t.interruptLines).extractLsb' 8 8 &&&
      (statusWord t.cp0.status).extractLsb' 8 8 ≠ 0 ∧ t.dataExceptionAtPc = false :=
  ⟨_, rfl, rfl, rfl, rfl, rfl, rfl, by decide, rfl⟩

/-- An enabled interrupt pending, at a misaligned load, and at a kseg1 load that ends in BusError. -/
theorem witness_stepTakesInterrupt_dataException :
    (∃ t, (pending.placeFetchWord 0x8c010001).sample.serveBus = .ok t ∧ t.halting = false ∧
      t.interruptCondition = true ∧ t.dataExceptionAtPc = true ∧
      t.takesInterrupt = false) ∧
    (∃ t, ((fed { quietInput with int := 1, dataReply := .busError }
        (regs 0xa0000000 0 pending)).placeFetchWord 0x8c220000).sample.serveBus = .ok t ∧
      t.interruptCondition = true ∧ t.dataExceptionAtPc = true) := by
  refine ⟨⟨_, rfl, ?_⟩, ⟨_, rfl, ?_⟩⟩ <;> decide

/-- COP1, LWC1 and SWC1 words with CU1 set on a part with no FPA. -/
theorem witness_reservedWords_noFpa :
    (stat 0x20400000 (boot .r3071)).cp0.status.cu.getLsbD 1 = true ∧
    (boot .r3071).chip.hasFpa = false ∧
    opField (encode (.addS 2 4 6)) = 0x11 ∧ opField (encode (.lwc1 1 2 0)) = 0x31 ∧
    opField (encode (.swc1 1 2 0)) = 0x39 ∧
    (∃ t, ((stat 0x20400000 (boot .r3071)).placeFetchWord 0x46000004).sample.serveBus = .ok t ∧
      t.halting = false ∧ t.takesInterrupt = false) :=
  ⟨rfl, rfl, rfl, rfl, rfl, _, rfl, rfl, rfl⟩

theorem witness_interruptLines :
    (boot .r3071).chip.hasFpa = false ∧ (boot .r3081).chip.hasFpa = true ∧
    (boot .r3081).seq.configWindow = 0 ∧ (boot .r3081).cp0.config.fpInt.toNat = 3 := by decide

theorem witness_stepResets :
    (fed { quietInput with reset := some Config.resetMode } (boot .r3081)).sample.env.reset =
      some Config.resetMode := by decide

/-- In the Halt stall, a kseg1 program, with the given lines. -/
def halted (lines : BitVec 6) (status : Word) : State :=
  let s := fed { quietInput with int := lines } (stat status (boot .r3081E))
  s.withSeq { s.seq with halted := true }

theorem witness_stepHalts_stuck :
    ((boot .r3081).waitForBus).seq.waiting = true ∧ (boot .r3081).waitForBus.sample.env.reset = none ∧
    (State.resetOf (partOf .r3081) { Config.resetMode with triState := true }).mode.triState = true := by
  decide

theorem witness_stepHalts_stall : ∃ t, (halted 0 0).sample.env.reset = none ∧
    (halted 0 0).mode.triState = false ∧ (halted 0 0).seq.waiting = false ∧ (halted 0 0).sample.serveBus = .ok t ∧ t.halting = true ∧
    t.interruptLines = 0 :=
  ⟨_, rfl, rfl, rfl, rfl, rfl, rfl⟩

theorem witness_stepHalts_interrupt : ∃ t, (halted 1 0x00400401).sample.serveBus = .ok t ∧
    t.halting = true ∧ t.interruptLines ≠ 0 ∧ t.wake.takesInterrupt = true :=
  ⟨_, rfl, rfl, by decide, rfl⟩

theorem witness_stepHalts_masked : ∃ t w u i, (halted 1 0x00400001).sample.serveBus = .ok t ∧
    t.halting = true ∧ t.interruptLines ≠ 0 ∧ t.wake.takesInterrupt = false ∧
    t.wake.fetchWord = .ok w u ∧ decode w = .ok i :=
  ⟨_, _, _, _, rfl, rfl, by decide, rfl, rfl, rfl⟩

theorem witness_loadDelay :
    (edge.seq.loadPending = some (31, 5) ∧ (31 : Reg) ≠ 0 ∧ (30 : Reg) ≠ 31) ∧
    ((boot .r3081).deferFpLoad 0 7).seq.fpLoadPending = some (0, 7) ∧
    (boot .r3081).seq.loadPending = none ∧ (boot .r3081).seq.fpLoadPending = none ∧
    (boot .r3081).seq.condPending = none ∧
    ((boot .r3081).withSeq { (boot .r3081).seq with condPending := some true }).seq.condPending =
      some true := by decide

/-- A compare and a CTC1 that complete and leave the old C pending. -/
theorem witness_loadDelay_condition :
    (∃ t, exec (.cEqS 0 0) (stat 0x20000000 (boot .r3081)) = .next t ∧ t.seq.waiting = false ∧
      t.seq.condPending ≠ none ∧ opField (encode (.cEqS 0 0)) = 0x11 ∧
      rsField (encode (.cEqS 0 0)) = 16 ∧ 48 ≤ (functField (encode (.cEqS 0 0))).toNat) ∧
    ∃ t, exec (.ctc1 1 31) (stat 0x20000000 (boot .r3081)) = .next t ∧ t.seq.waiting = false ∧
      t.seq.condPending ≠ none :=
  ⟨⟨_, rfl, by decide, by decide, by decide, by decide, by decide⟩, ⟨_, rfl, by decide, by decide⟩⟩

/-- A write never acknowledged on the bus, four stores waiting behind it, r1 in kseg1. -/
def deadBus : State := (regs 0xa0000000 0xaabbccdd edge).blockBus.post ⟨5, 0xf, 2⟩

theorem witness_memoryBytesAndPostedStores : edge.writeBuffer.length = 4 ∧
    edge.waitingStores.length = 4 ∧ edge.blockBus.waitingStores.length = 3 ∧
    deadBus.seq.busBlocked = true ∧ deadBus.waitingStores.length = 4 ∧
    edge.writeBuffer = ⟨0x3fffffff, 0xf, 1⟩ :: edge.writeBuffer.tail ∧
    (0x3fffffff : WordAddr) ≠ 0 := by decide

/-- The caches swapped or not, the coherent option on or off. -/
def coherent (on swapped : Bool) : State :=
  let s := State.resetOf (partOf .r3081) { Config.resetMode with coherentDmaEn := on }
  s.withStatus { s.cp0.status with swc := swapped }

theorem witness_memoryBusEvents :
    (edge.blockBus.seq.busBlocked = true ∧ edge.seq.busBlocked = false ∧ edge.writeBuffer ≠ []) ∧
    ((coherent true false).mode.coherentDmaEn = true ∧ (coherent true false).readBuffer = [] ∧
      (coherent true false).dcache.tagsUndefined = false ∧
      (coherent true false).cp0.status.swc = false ∧ (coherent true true).cp0.status.swc = true ∧
      (coherent false false).mode.coherentDmaEn = false ∧
      tagIndex .data (coherent true false).acInForce 0x3fffffff =
        tagIndex .data (coherent true false).acInForce 0x3ff) := by decide

theorem witness_accessLanes : (0x80000000#32).extractLsb' 0 2 = 0 ∧ (0xfffffffd#32).extractLsb' 0 2 = 1 ∧
    (2#32).extractLsb' 0 2 = 2 ∧ (0xffffffff#32).extractLsb' 0 2 = 3 := by decide

theorem witness_unmappedSegments :
    ((boot .r3081).translate 0x80000000 .load = .ok (0, true) (boot .r3081) ∧
      (boot .r3081).translate 0x9fffffff .store = .ok (0x1fffffff, true) (boot .r3081) ∧
      (boot .r3081E).translate 0xa0000000 .fetch = .ok (0, false) (boot .r3081E) ∧
      (boot .r3081E).translate 0xbfffffff .load = .ok (0x1fffffff, false) (boot .r3081E)) ∧
    ((boot .r3081).cp0.status.isc = false ∧ (boot .r3081).seq.busBlocked = false) ∧ (∃ v t, (boot .r3081).readUncached 5 = .ok v t) ∧
    ∃ v t, (boot .r3081).fetchUncached 5 = .ok v t :=
  ⟨⟨rfl, rfl, rfl, rfl⟩, ⟨rfl, rfl⟩, ⟨_, _, rfl⟩, ⟨_, _, rfl⟩⟩

theorem witness_baseVersionMapping : (boot .r3071).chip.hasTlb = false ∧
    (boot .r3071).translate 0 .load = .ok (0x40000000, true) (boot .r3071) ∧
    (boot .r3071).translate 0x7fffffff .store = .ok (0xbfffffff, true) (boot .r3071) ∧
    (boot .r3071).translate 0xc0000000 .fetch = .ok (0xc0000000, true) (boot .r3071) ∧
    (boot .r3071).translate 0xffffffff .load = .ok (0xffffffff, true) (boot .r3071) :=
  ⟨rfl, rfl, rfl, rfl, rfl⟩

/-- Entry `n` of the TLB maps page `vpn` for process 3; the others are as after reset. -/
def mapped (n : BitVec 6) (vpn : BitVec 20) (lo : EntryLo) : State :=
  ((boot .r3081E).writeTlb n ⟨⟨vpn, 3⟩, lo⟩).withEntryHi ⟨vpn, 3⟩

/-- Page 0x7ffff, writable. -/
def top : State := mapped 63 0x7ffff ⟨0x12345, true, true, true, false⟩

/-- The same page, not valid. -/
def topInvalid : State := mapped 63 0x7ffff ⟨0x12345, true, true, false, false⟩

/-- The same page, read only. -/
def topReadOnly : State := mapped 63 0x7ffff ⟨0x12345, true, false, true, false⟩

/-- The same page, mapped twice. -/
def topTwice : State := top.writeTlb 0 ⟨⟨0x7ffff, 0⟩, ⟨1, false, false, true, true⟩⟩

/-- Which entries map a page, as the statements say it. -/
def maps (s : State) (vpn : BitVec 20) (j : BitVec 6) : Prop :=
  (s.tlbEntry j).hi.vpn = vpn ∧
    ((s.tlbEntry j).lo.g = true ∨ (s.tlbEntry j).hi.pid = s.cp0.entryHi.pid)

theorem witness_tlbTranslation_one : ∀ j, maps top 0x7ffff j ↔ j = 63 := by
  unfold maps; decide

theorem witness_tlbTranslation_bits :
    top.chip.hasTlb = true ∧ top.cp0.status.ts = false ∧ (top.tlbEntry 63).lo.v = true ∧
    (top.tlbEntry 63).lo.d = true ∧ (0x7fffffff#32).getLsbD 31 = false ∧
    (0x7fffffff#32).extractLsb' 12 20 = 0x7ffff#20 ∧ (0xc0000000#32).extractLsb' 30 2 = 3#2 ∧
    (topInvalid.tlbEntry 63).lo.v = false ∧ (topReadOnly.tlbEntry 63).lo.v = true ∧
    (topReadOnly.tlbEntry 63).lo.d = false := by decide

theorem witness_tlbTranslation_invalid : ∀ j, maps topInvalid 0x7ffff j ↔ j = 63 := by
  unfold maps; decide

theorem witness_tlbTranslation_readOnly : ∀ j, maps topReadOnly 0x7ffff j ↔ j = 63 := by
  unfold maps; decide

theorem witness_tlbTranslation_none : ∀ j, ¬ maps top 0xc0000 j := by
  unfold maps; decide

theorem witness_tlbTranslation_twice : (0 : BitVec 6) ≠ 63 ∧
    (topTwice.tlbEntry 0).maps 0x7ffff topTwice.cp0.entryHi.pid = true ∧
    (topTwice.tlbEntry 63).maps 0x7ffff topTwice.cp0.entryHi.pid = true ∧
    (top.withStatus { top.cp0.status with ts := true }).cp0.status.ts = true := by decide

/-- User mode, coprocessors 0 to 3 as the high bits say. -/
def user (s : State) : State := stat 0x00400002 s

theorem witness_addressErrors : (user (boot .r3081)).cp0.status.kuc = true ∧
    0x80000000 ≤ (0x80000000#32).toNat ∧ (0x7fffffff#32).toNat < 0x80000000 ∧
    (boot .r3081).cp0.status.kuc = false ∧ Width.half.aligned 0xfffffffe = true ∧
    Width.word.aligned 2 = false ∧ (at_ 0xbfc00003 (boot .r3081)).pc.toNat % 4 ≠ 0 ∧
    (user (boot .r3081)).pc.toNat = 0xbfc00000 := by decide

theorem witness_exceptionVectors : Exc.tlbl 4 true = .tlbl 4 true ∧ Exc.isRefill (.tlbs 4 false) = false ∧
    (boot .r3081E).translate 0x00001000 .load = .exc (.tlbl 0x00001000 true) (boot .r3081E) :=
  ⟨rfl, rfl, rfl⟩

theorem witness_returnFromException : Cp0Ready (boot .r3081) ∧
    Cp0Ready (stat 0x10400002 (boot .r3081)) := ⟨.inl rfl, .inr rfl⟩

/-- The sums at the ends of the range and just outside it. -/
theorem witness_overflowingArithmetic :
    ((0x7ffffffe#32).toInt + (1#32).toInt = 2 ^ 31 - 1 ∧ (0x80000001#32).toInt + (0xffff#16).toInt = -(2 ^ 31) ∧
      (0x80000001#32).toInt - (1#32).toInt = -(2 ^ 31)) ∧
    ((0x7fffffff#32).toInt + (1#32).toInt = 2 ^ 31 ∧ (0x80000000#32).toInt + (0xffff#16).toInt = -(2 ^ 31) - 1 ∧
      (0x7fffffff#32).toInt - (0xffffffff#32).toInt = 2 ^ 31) := by decide

/-- -7 divided by 2, the other signs, and the largest quotients. -/
theorem witness_divideResults :
    ((0xfffffff9#32).toInt = (-3) * (2#32).toInt + (-1) ∧ (-1 : Int).natAbs < (2#32).toInt.natAbs) ∧
    ((7#32).toInt = (-3) * (0xfffffffe#32).toInt + 1) ∧
    ((0x80000000#32).toInt = (-(2 ^ 31)) * (1#32).toInt + 0) ∧
    (0xffffffff#32).toNat = 0xffffffff * (1#32).toNat + 0 ∧
    (0xfffffffe#32).toNat = 0 * (0xffffffff#32).toNat + 0xfffffffe := by decide

theorem witness_transfers : (boot .r3081).seq.inDelaySlot = false ∧
    (slot (boot .r3081)).seq.inDelaySlot = true ∧ (boot .r3081).usable 0 = true ∧
    (stat 0xe0400000 (boot .r3081)).usable 2 = true ∧
    (stat 0xe0400000 (boot .r3081)).usable 3 = true ∧
    (slot (stat 0xe0400000 (boot .r3081))).usable 3 = true := by decide

/-- An instruction that completes, with other pins. -/
theorem witness_capturesConditions : ∃ t,
    exec (.sll 0 0 0) (fed { quietInput with brCond2 := true } (boot .r3081)) = .next t ∧
    t.seq.waiting = false ∧ t.seq.condLatch2 = true := ⟨_, rfl, rfl, rfl⟩

theorem witness_fpaReady : FpaReady (stat 0x20000000 (boot .r3081)) ∧
    FpaReady (slot (stat 0x20000000 (boot .r3081E))) := ⟨⟨rfl, rfl⟩, ⟨rfl, rfl⟩⟩

theorem witness_coprocessorUnusable :
    opField (encode (.mfc0 31 0)) = (0b0100#4) ++ (0#2) ∧ (user (boot .r3081)).usable 0 = false ∧
    opField (encode (.bc3t 0)) = (0b0100#4) ++ (3#2) ∧ (boot .r3081).usable 3 = false ∧
    opField (encode (.lwc1 0 31 0)) = 0x31 ∧ opField (encode (.swc1 0 31 0)) = 0x39 ∧
    (boot .r3081).usable 1 = false := by decide

/-- A word pending in the write buffer for the last word of kseg1, r1 pointing past it. -/
def loaded : State :=
  let s := regs 0xc0000000 0xaabbccdd (stat 0x20000000 (boot .r3081))
  { s with writeBuffer := [{ addr := wordAddress 0x1ffffffc, lanes := 0xf, data := 0x80ff7f01 }] }

/-- The same, in kseg0. -/
def cached : State := (loaded.writeReg 1 0xa0000000)

theorem witness_loadResults : ∃ pa c t w u,
    loaded.address (loaded.effectiveAddress 1 0xfffc) .load true = .ok (pa, c) t ∧
    t.loadWord (wordAddress pa) c = .ok w u ∧ (loaded.effectiveAddress 1 0xfffc).toNat % 4 = 0 ∧
    (loaded.effectiveAddress 1 0xfffe).toNat % 2 = 0 :=
  ⟨_, _, _, _, _, rfl, rfl, rfl, rfl⟩

theorem witness_loadResults_cached : ∃ pa c t w u,
    cached.address (cached.effectiveAddress 1 0xffff) .load true = .ok (pa, c) t ∧
    t.loadWord (wordAddress pa) c = .ok w u :=
  ⟨_, _, _, _, _, rfl, rfl⟩

theorem witness_uncachedAccess : UncachedAccess loaded (loaded.effectiveAddress 1 0xffff) ∧
    UncachedAccess loaded (loaded.effectiveAddress 1 0xfffc) ∧
    (loaded.effectiveAddress 1 0xfffc).toNat % 4 = 0 ∧
    (loaded.effectiveAddress 1 0xfffe).toNat % 2 = 0 :=
  ⟨⟨rfl, rfl, rfl, rfl, rfl⟩, ⟨rfl, rfl, rfl, rfl, rfl⟩, rfl, rfl⟩

/-- Every answer to the word access of an uncacheable load, and the cache not isolated. -/
theorem witness_uncachedLoads_word : loaded.cp0.status.isc = false ∧ loaded.seq.busBlocked = false ∧
    loaded.env.dataReply = .memory ∧ deadBus.cp0.status.isc = false ∧
    (fed { quietInput with dataReply := .device 1 2 3 4 } loaded).env.dataReply = .device 1 2 3 4 ∧
    (fed { quietInput with dataReply := .busError } loaded).env.dataReply = .busError ∧
    (fed { quietInput with dataReply := .noAnswer } loaded).env.dataReply = .noAnswer ∧
    (fed { quietInput with dataReply := .noAnswer } loaded).cp0.status.isc = false := by decide

theorem witness_storeResults : ∃ pa c t u v x,
    loaded.address (loaded.effectiveAddress 1 0xfffc) .store true = .ok (pa, c) t ∧
    t.storeWord (wordAddress pa) c (Width.byte.lanes loaded.bigEndianData 0xbffffffc)
      ((loaded.readReg 2 &&& 0xff) <<< (8 * byteLane loaded.bigEndianData 0xbffffffc)) = .ok () u ∧
    t.storeWord (wordAddress pa) c (Width.half.lanes loaded.bigEndianData 0xbffffffc)
      ((loaded.readReg 2 &&& 0xffff) <<< 16) = .ok () v ∧
    t.storeWord (wordAddress pa) c allLanes (loaded.readReg 2) = .ok () x ∧
    loaded.effectiveAddress 1 0xfffc = 0xbffffffc :=
  ⟨_, _, _, _, _, _, rfl, rfl, rfl, rfl, rfl⟩

theorem witness_storeResults_partial : ∃ pa c t u v,
    cached.address (cached.effectiveAddress 1 0xfffd) .store true = .ok (pa, c) t ∧
    t.storeWord (wordAddress pa) c (lanesDown 2) (cached.readReg 2 >>> 8) = .ok () u ∧
    t.storeWord (wordAddress pa) c (lanesUp 2) (cached.readReg 2 <<< 16) = .ok () v ∧
    byteLane cached.bigEndianData (cached.effectiveAddress 1 0xfffd) = 2 :=
  ⟨_, _, _, _, _, rfl, rfl, rfl, rfl⟩

theorem witness_accessExceptions :
    dataAccess (.lw 1 2 0xfffe) = some ⟨.load, 1, 0xfffe, .word, false⟩ ∧
    loaded.address (loaded.effectiveAddress 1 0xfffe) .load
      (Width.word.aligned (loaded.effectiveAddress 1 0xfffe)) = .exc (.adel 0xbffffffe) loaded ∧
    dataAccess (.swc1 1 2 0xfffc) = some ⟨.store, 1, 0xfffc, .word, true⟩ ∧ FpaReady loaded ∧
    (user loaded).cp0.status.kuc = true ∧
    ((user loaded).effectiveAddress 1 0xfffc).getLsbD 31 = true :=
  ⟨rfl, rfl, rfl, ⟨rfl, rfl⟩, rfl, rfl⟩

/-- A kseg1 load ended by BusError, one never answered, and a store behind a dead write. -/
theorem witness_accessExceptions_bus :
    (∃ u, (fed { quietInput with dataReply := .busError } loaded).loadWord (wordAddress 0x1ffffffc) false =
      .exc .dbe u) ∧
    (∃ u, (fed { quietInput with dataReply := .noAnswer } loaded).loadWord (wordAddress 0x1ffffffc) false =
      .never u) ∧
    loaded.address (loaded.effectiveAddress 1 0xfffc) .load true = .ok (0x1ffffffc, false) loaded ∧
    deadBus.seq.busBlocked = true ∧ 4 ≤ deadBus.waitingStores.length ∧
    deadBus.cp0.status.kuc = false ∧ deadBus.cp0.status.isc = false ∧
    deadBus.effectiveAddress 1 0 = 0xa0000000 ∧ loaded.waitingStores.length < 4 :=
  ⟨⟨_, rfl⟩, ⟨_, rfl⟩, rfl, rfl, by decide, rfl, rfl, by decide, by decide⟩

/-- A SWL to kseg1 and a SW to kseg0 behind a dead write. -/
theorem witness_accessExceptions_store :
    dataAccess (.swl 1 2 1) = some ⟨.store, 1, 1, .byte, false⟩ ∧
    (∃ t, deadBus.address (deadBus.effectiveAddress 1 1) .store true = .ok (1, false) t) ∧
    dataAccess (.sw 1 2 0) = some ⟨.store, 1, 0, .word, false⟩ ∧
    (∃ t, (deadBus.writeReg 1 0x80000000).address 0x80000000 .store true = .ok (0, true) t) ∧
    (deadBus.writeReg 1 0x80000000).effectiveAddress 1 0 = 0x80000000 ∧
    deadBus.awaitingFlush = false :=
  ⟨rfl, ⟨_, rfl⟩, rfl, ⟨_, rfl⟩, by decide, by decide⟩

/-- The first word of kseg0 in the data cache. -/
def hot : State := (boot .r3081).fillWord .data 0 0x11112222 false

theorem witness_cachedLoads : hot.cp0.status.isc = false ∧ hot.awaitingFlush = false ∧
    (hot.dataLookup 0).hit = true ∧ (hot.dataLookup 0x400).hit = false ∧ hot.env.dataReply = .memory ∧
    ((fed { quietInput with dataReply := .busError } hot).dataLookup 0x400).hit = false ∧
    (fed { quietInput with dataReply := .busError } hot).env.dataReply = .busError ∧
    (fed { quietInput with dataReply := .noAnswer } hot).env.dataReply = .noAnswer ∧
    hot.seq.busBlocked = false ∧ (hot.post ⟨0, 1, 0⟩).blockBus.seq.busBlocked = true ∧
    (hot.withConfig { hot.cp0.config with dbRefill := true }).dbRefillInForce = true ∧
    (hot.withConfig { hot.cp0.config with dbRefill := false }).dbRefillInForce = false ∧
    (unflushed hot).cp0.status.isc = false ∧ (unflushed hot).awaitingFlush = true ∧
    (fed { quietInput with dataReply := .device 1 2 3 4 } hot).env.dataReply = .device 1 2 3 4 ∧
    ((fed { quietInput with dataReply := .device 1 2 3 4 } hot).dataLookup 0x400).hit = false := by
  decide

theorem witness_cachedStores : (stat 0x00040000 hot).cp0.status.pz = true ∧
    (stat 0x00040000 hot).cp0.status.isc = false ∧ hot.cp0.status.pz = false ∧ hot.cp0.status.swc = false ∧
    (8 : Lanes) ≠ allLanes ∧ (hot.dataLookup 0x3fffffff).hit = false ∧
    ((stat 0x00040000 hot).dataLookup 0).hit = true ∧ (stat 0x00040000 hot).awaitingFlush = false ∧
    (unflushed hot).awaitingFlush = true ∧ (unflushed hot).cp0.status.isc = false := by decide

theorem witness_isolatedCache : (stat 0x00010000 hot).cp0.status.isc = true ∧
    (stat 0x00010000 hot).cp0.status.pz = false ∧ (stat 0x00030000 hot).cp0.status.isc = true ∧
    (stat 0x00030000 hot).cp0.status.swc = true ∧ (stat 0x00050000 hot).cp0.status.isc = true ∧
    (stat 0x00050000 hot).cp0.status.pz = true ∧ (stat 0x00050000 hot).dcache.tagsUndefined = false ∧
    (unflushed (stat 0x00010000 hot)).dcache.tagsUndefined = true := by decide

theorem witness_mtc0Results :
    ([1, 5, 9, 11, 14, 31].all fun n : Nat => n = 1 || (5 ≤ n && n ≤ 9) || n = 11 || 14 ≤ n) = true ∧
    (boot .r3081E).chip.hasTlb = true ∧ isNext (exec .rfe (boot .r3081)) = true := by decide

theorem witness_statusAndConfigWrites :
    ((regs 0 0 (boot .r3081)).readReg 1).getLsbD 16 = (boot .r3081).cp0.status.isc ∧
    ((regs 0x10000 0 (boot .r3081)).readReg 1).getLsbD 16 ≠ (boot .r3081).cp0.status.isc ∧
    (boot .r3081).seq.fetchCached = false ∧ (boot .r3081).seq.prevFetchCached = false ∧
    ((boot .r3081).noteFetch true).seq.fetchCached = true ∧
    (((boot .r3081).noteFetch true).noteFetch false).seq.prevFetchCached = true ∧ (boot .r3081).seq.configWindow = 0 ∧
    (boot .r3081).cp0.config.lock = false ∧
    (((regs 0x14000000 0 (boot .r3081)).readReg 1).extractLsb' 26 3).toNat = 5 ∧
    (((regs 0x18000000 0 (boot .r3081)).readReg 1).extractLsb' 26 3).toNat = 6 ∧
    (((regs 0x00800000 0 (boot .r3081)).readReg 1).getLsbD 23) ≠ (boot .r3081).cp0.config.ac ∧
    ((boot .r3081).withConfig { resetConfig Config.resetMode with lock := true }).cp0.config.lock =
      true := by decide

/-- Lock in force and not, inside a window of an earlier write. -/
theorem witness_statusAndConfigWrites_window :
    (let s := ((boot .r3081).withConfig { resetConfig Config.resetMode with lock := true })
     (s.openConfigWindow s.cp0.config).lockInForce = true ∧
       (s.openConfigWindow s.cp0.config).seq.configWindow = 10 ∧ s.lockInForce = true) ∧
    (let s := boot .r3081
     (s.openConfigWindow s.cp0.config).lockInForce = false ∧
       (s.openConfigWindow s.cp0.config).seq.configWindow = 10 ∧ s.lockInForce = false) := by decide

/-- An instruction that completes, one that takes an exception and one that waits, in a Config window. -/
theorem witness_statusAndConfigWrites_ends : edge.seq.configWindow = 10 ∧
    isNext (exec (.addu 1 2 3) edge) = true ∧ isNext (exec (.syscall 0) edge) = true ∧
    isNext (exec (.sw 1 2 0) deadBus) = true ∧ deadBus.seq.configWindow = 10 ∧
    (∀ rt, Instr.sw 1 2 0 ≠ .mtc0 rt 3) :=
  ⟨rfl, by decide, by decide, by decide, by decide, by decide⟩

/-- Status.RE in User mode, and in Kernel mode. -/
theorem witness_byteOrder :
    (stat 0x02400002 (boot .r3081)).cp0.status.re = true ∧
    (stat 0x02400002 (boot .r3081)).cp0.status.kuc = true ∧
    (stat 0x02400000 (boot .r3081)).cp0.status.kuc = false := by decide

theorem witness_tlbInstructionResults : Cp0Ready top ∧ top.chip.hasTlb = true ∧
    top.seq.cp0WriteWindow = false ∧ top.cp0.entryHi.vpn = 0x7ffff ∧
    (top.withSeq { top.seq with cp0WriteWindow := true }).seq.cp0WriteWindow = true ∧
    (boot .r3071).chip.hasTlb = false ∧ topTwice.cp0.entryHi.vpn = 0x7ffff ∧
    (top.withEntryHi ⟨0x12345, 3⟩).cp0.entryHi.vpn = 0x12345 :=
  ⟨.inl rfl, rfl, rfl, rfl, rfl, rfl, rfl, rfl⟩

theorem witness_tlbInstructionResults_none : ∀ j, ¬ maps (top.withEntryHi ⟨0x12345, 3⟩) 0x12345 j := by
  unfold maps; decide

theorem witness_fpaOperands : (30 : Reg).getLsbD 0 = false ∧ (0 : Reg).getLsbD 0 = false ∧
    (31 : Reg).getLsbD 0 = true ∧ (1 : Reg) ≠ 0 ∧ (1 : Reg) ≠ 31 ∧ (30 : Reg) ≠ 31 := by decide

/-- A masked trap of E asserts the line: an instruction after it meets the hypotheses. -/
def trapped : State := (stat 0x20000000 (boot .r3081)).recordFp 0x20

theorem witness_interruptLines_held : trapped.fpaLine = true ∧ FpTraps trapped 0x20 ∧
    ¬ FpTraps trapped 0 ∧ FpaReady trapped ∧ isNext (exec (.movS 2 4) trapped) = true :=
  ⟨rfl, .inl rfl, fun h => h.elim (fun h => by cases h) (fun ⟨k, _, h, _⟩ => by simp at h),
    ⟨rfl, rfl⟩, by decide⟩

theorem witness_fpaTraps : ¬ FpTraps loaded 0x1f ∧ FpTraps loaded 0x20 ∧
    (stat 0x20402001 loaded).fpaInterruptEnabled = true ∧ loaded.fpaInterruptEnabled = false :=
  ⟨fun h => h.elim (fun h => by cases h) (fun ⟨k, hk, _, h⟩ => by
    have h0 : loaded.fcr31.enables = 0 := rfl
    rw [h0] at h; simp at h), .inl rfl, rfl, rfl⟩

theorem witness_fpaCompareOdd : opField (encode (.cNgtD 1 2)) = 0x11 ∧
    rsField (encode (.cNgtD 1 2)) = 17 ∧ 48 ≤ (functField (encode (.cNgtD 1 2))).toNat ∧
    rtField (encode (.cNgtD 1 2)) = 1 ∧ rdField (encode (.cNgtD 1 2)) = 2 ∧
    rsField (encode (.cFS 1 2)) = 16 ∧ (functField (encode (.cFS 1 2))).toNat = 48 := by decide

/-- The classes of operands, at the ends of their ranges (45_fpa_formats.md R315, R316). -/
theorem witness_fpaSpecialOperands :
    (single.value 0x7fffffff).isSnan = true ∧ (single.value 0x7f800001).isQnan = true ∧
    (single.value 0x807fffff).isDenorm = true ∧ single.value 0x7f800000 = .inf false ∧
    single.value 0xff800000 = .inf true ∧ single.value 0x80000000 = .zero true ∧
    single.value 0x00800000 = .finite false false (2 ^ 23) (-149) ∧
    double.value 0x7fefffffffffffff = .finite false false (2 ^ 53 - 1) 971 ∧
    double.value 0x7ff0000000000000 = .inf false ∧ (double.value 1).isDenorm = true := by decide

/-- Numbers, their sums 0 or not (45_fpa_formats.md R315): -0, 1.0, 2.5, -2.5. -/
theorem witness_fpaArithmeticResults :
    (single.value 0x80000000).isNumber = true ∧
    single.value 0x3f800000 = .finite false false (2 ^ 23) (-23) ∧
    single.value 0x40200000 = .finite false false (5 * 2 ^ 21) (-22) ∧
    single.value 0xc0200000 = .finite true false (5 * 2 ^ 21) (-22) ∧
    (single.value 0x40200000).isNumber = true ∧ (single.value 0x40200000).isDenorm = false := by decide

theorem witness_fpaUnaryResults : (single.value 0x40200000).toRat = 5 / 2 ∧
    RoundsToInt 0 (5 / 2) 2 ∧ RoundsToInt 3 (-5 / 2) (-3) ∧ (0x100000000#64).extractLsb' 0 32 = 0#32 := by
  have h : single.value 0x40200000 = .finite false false (5 * 2 ^ 21) (-22) := by decide
  rw [h]
  refine ⟨by norm_num [FpValue.toRat], ?_, ?_, by decide⟩
  · refine ⟨fun _ => ⟨by norm_num, fun _ => rfl⟩, fun h => ?_, fun h => ?_, fun h => ?_⟩ <;>
      exact absurd h (by decide)
  · refine ⟨fun h => ?_, fun h => ?_, fun h => ?_, fun _ => by norm_num⟩ <;> exact absurd h (by decide)

theorem witness_fpaCompareResults : (single.value 0x7f800001).isNan = true ∧
    (single.value 0).isNumber = true ∧ (double.value 0xfff0000000000000).isNan = false ∧
    double.value 0xfff0000000000000 = .inf true := by decide

/-- 1/3 to 24 bits under each rounding mode (95_test_vectors.md V12). -/
theorem witness_roundingIsCorrect :
    roundMagnitude 24 0 false 1 3 = ⟨0xaaaaab, -2, true⟩ ∧
    roundMagnitude 24 1 false 1 3 = ⟨0xaaaaaa, -2, true⟩ ∧
    roundMagnitude 24 2 false 1 3 = ⟨0xaaaaab, -2, true⟩ ∧
    roundMagnitude 24 3 false 1 3 = ⟨0xaaaaaa, -2, true⟩ := by decide

/-- At the top of a binade: the magnitude is just below a power of two, and rounds to it under RN and
upward; the representable value below it stays as it is in every mode. -/
theorem witness_roundingIsCorrect_binade :
    roundMagnitude 24 0 false (2 ^ 26 - 1) 4 = ⟨2 ^ 23, 24, true⟩ ∧
    roundMagnitude 24 2 false (2 ^ 26 - 1) 4 = ⟨2 ^ 23, 24, true⟩ ∧
    roundMagnitude 24 3 true (2 ^ 26 - 1) 4 = ⟨2 ^ 23, 24, true⟩ ∧
    roundMagnitude 24 1 false (2 ^ 26 - 1) 4 = ⟨2 ^ 24 - 1, 23, true⟩ ∧
    roundMagnitude 24 0 false (2 ^ 24 - 1) 1 = ⟨2 ^ 24 - 1, 23, false⟩ ∧
    roundMagnitude 24 2 false (2 ^ 24 - 1) 1 = ⟨2 ^ 24 - 1, 23, false⟩ := by decide

theorem witness_numericResults :
    roundMagnitude single.prec 0 false (2 ^ 24 - 1) (2 ^ 150) = ⟨2 ^ 24 - 1, -127, false⟩ ∧
    roundMagnitude single.prec 0 false (2 ^ 25 - 1) (2 ^ 151) = ⟨2 ^ 23, -126, true⟩ ∧
    floorLog2 (2 ^ 25 - 1) (2 ^ 151) = -127 ∧
    roundMagnitude single.prec 0 false 1 (2 ^ 126) = ⟨2 ^ 23, -126, false⟩ ∧
    roundMagnitude single.prec 0 false (2 ^ 24 - 1) 1 = ⟨2 ^ 24 - 1, 23, false⟩ ∧
    roundMagnitude single.prec 0 false (2 ^ 128) 1 = ⟨2 ^ 23, 128, false⟩ := by decide

/-! ## The spec's worked examples (95_test_vectors.md) -/

/-- The start of the derived vectors: pc 0x80001000, Status 0, with r1 and r2 given. -/
def start (a b : Word) : State := at_ 0x80001000 (regs a b (stat 0 (boot .r3081)))

/-- 95_test_vectors.md V1. -/
theorem test_alu_immediate :
    after (exec (.addi 1 2 0xffff) (start 5 0)) (·.gprValue 2) = some 4 ∧
    after (exec (.addiu 1 2 0x8000) (start 0 0)) (·.gprValue 2) = some 0xffff8000 ∧
    after (exec (.slti 1 2 0xffff) (start 0xfffffffe 0)) (·.gprValue 2) = some 1 ∧
    after (exec (.sltiu 1 2 0xffff) (start 0xffffffff 0)) (·.gprValue 2) = some 0 ∧
    after (exec (.andi 1 2 0xff00) (start 0x12345678 0)) (·.gprValue 2) = some 0x5600 ∧
    after (exec (.ori 1 2 0x8000) (start 0x12340000 0)) (·.gprValue 2) = some 0x12348000 ∧
    after (exec (.xori 1 2 0xffff) (start 0x1234ffff 0)) (·.gprValue 2) = some 0x12340000 ∧
    after (exec (.lui 2 0x8000) (start 0 0)) (·.gprValue 2) = some 0x80000000 ∧
    after (exec (.addiu 1 0 1) (start 7 0)) (·.gprValue 0) = some 0 := by decide

/-- 95_test_vectors.md V2. -/
theorem test_register_operations :
    after (exec (.add 1 2 3) (start 0xffffffff 1)) (·.gprValue 3) = some 0 ∧
    after (exec (.addu 1 2 3) (start 0x7fffffff 1)) (·.gprValue 3) = some 0x80000000 ∧
    after (exec (.sub 1 2 3) (start 5 7)) (·.gprValue 3) = some 0xfffffffe ∧
    after (exec (.subu 1 2 3) (start 0x80000000 1)) (·.gprValue 3) = some 0x7fffffff ∧
    after (exec (.slt 1 2 3) (start 0xffffffff 0)) (·.gprValue 3) = some 1 ∧
    after (exec (.sltu 1 2 3) (start 0xffffffff 0)) (·.gprValue 3) = some 0 ∧
    after (exec (.and 1 2 3) (start 0xff00ff00 0x0ff00ff0)) (·.gprValue 3) = some 0x0f000f00 ∧
    after (exec (.or 1 2 3) (start 0xff00ff00 0x0ff00ff0)) (·.gprValue 3) = some 0xfff0fff0 ∧
    after (exec (.xor 1 2 3) (start 0xff00ff00 0x0ff00ff0)) (·.gprValue 3) = some 0xf0f0f0f0 ∧
    after (exec (.nor 1 2 3) (start 0xff00ff00 0x0ff00ff0)) (·.gprValue 3) = some 0x000f000f := by
  decide

/-- 95_test_vectors.md V2, the overflowing rows. -/
theorem test_overflow :
    after (exec (.add 1 2 3) (start 0x7fffffff 1)) (fun s => (s.gprValue 3, s.pc)) =
      some (0, 0x80000080) ∧
    after (exec (.sub 1 2 3) (start 0 0x80000000)) (fun s => (s.cp0.cause.excCode, s.cp0.epc)) =
      some (12, 0x80001000) ∧
    after (exec (.addi 1 2 0xffff) (start 0x80000000 0x55)) (·.gprValue 2) = some 0x55 := by decide

/-- 95_test_vectors.md V3. -/
theorem test_shifts :
    after (exec (.sll 2 3 4) (start 0 0x80000001)) (·.gprValue 3) = some 0x10 ∧
    after (exec (.srl 2 3 4) (start 0 0x80000001)) (·.gprValue 3) = some 0x08000000 ∧
    after (exec (.sra 2 3 31) (start 0 0x80000000)) (·.gprValue 3) = some 0xffffffff ∧
    after (exec (.sllv 1 2 3) (start 0x24 1)) (·.gprValue 3) = some 0x10 ∧
    after (exec (.srlv 1 2 3) (start 0xffffffe4 0x80000000)) (·.gprValue 3) = some 0x08000000 ∧
    after (exec (.srav 1 2 3) (start 0x21 0x80000000)) (·.gprValue 3) = some 0xc0000000 := by decide

/-- 95_test_vectors.md V4. -/
theorem test_multiply_and_divide :
    after (exec (.mult 1 2) (start 0x80000000 0x7fffffff)) (fun s => (s.hi, s.lo)) =
      some (0xc0000000, 0x80000000) ∧
    after (exec (.multu 1 2) (start 0xffffffff 0xffffffff)) (fun s => (s.hi, s.lo)) =
      some (0xfffffffe, 1) ∧
    after (exec (.div 1 2) (start 0xfffffff9 2)) (fun s => (s.hi, s.lo)) =
      some (0xffffffff, 0xfffffffd) ∧
    after (exec (.divu 1 2) (start 0xfffffff9 2)) (fun s => (s.hi, s.lo)) = some (1, 0x7ffffffc) ∧
    after (exec (.mthi 1) (start 0xdeadbeef 0)) (fun s => (s.hi, s.lo)) = some (0xdeadbeef, 0) ∧
    after (exec (.mtlo 1) (start 1 0)) (fun s => (s.hi, s.lo)) = some (0, 1) ∧
    after (exec (.mfhi 3) ((start 0 0).withHi 9)) (·.gprValue 3) = some 9 ∧
    after (exec (.mflo 3) ((start 0 0).withLo 8)) (·.gprValue 3) = some 8 := by decide

/-- Where a jump or branch goes after its delay slot, and the link register. -/
def goesTo (i : Instr) (a b : Word) : Option (Word × Word) :=
  after (exec i (start a b)) (fun s => (s.nextPc, s.gprValue 31))

/-- 95_test_vectors.md V5. -/
theorem test_jumps_and_branches :
    goesTo (.beq 1 2 4) 5 5 = some (0x80001014, 0) ∧ goesTo (.beq 1 2 4) 5 6 = some (0x80001008, 0) ∧
    goesTo (.bne 1 2 0xfffe) 5 6 = some (0x80000ffc, 0) ∧ goesTo (.blez 1 4) 0 0 = some (0x80001014, 0) ∧
    goesTo (.bgtz 1 4) 0 0 = some (0x80001008, 0) ∧ goesTo (.bltz 1 4) 0x80000000 0 = some (0x80001014, 0) ∧
    goesTo (.bgez 1 4) 0xffffffff 0 = some (0x80001008, 0) ∧
    goesTo (.bltzal 1 4) 0 0 = some (0x80001008, 0x80001008) ∧
    goesTo (.bgezal 1 0x8000) 0 0 = some (0x7ffe1004, 0x80001008) ∧
    goesTo (.j 0x400) 0 0 = some (0x80001000, 0) ∧
    goesTo (.jal 0x3ffffff) 0 0 = some (0x8ffffffc, 0x80001008) ∧
    goesTo (.jr 1) 0x80002000 0 = some (0x80002000, 0) ∧
    goesTo (.jalr 1 31) 0xbfc00000 0 = some (0xbfc00000, 0x80001008) := by decide

/-- Bytes at rising byte addresses, in a byte order. -/
def placed (big : Bool) (a : Nat) (bytes : List Byte) : List Host.Cell :=
  bytes.zipIdx.foldl (fun m b => Memory.write m (byteCell big (a + b.2)) b.1) []

/-- Memory of the vectors V6: 80 FF 7F 01 80 01 FF FE at 0xa0002000, r2 = 0xaabbccdd. -/
def loading (big : Bool) : State :=
  let s := start 0xa0002000 0xaabbccdd
  { s with
    mode := { s.mode with bigEndian := big }
    mem := placed big 0x2000 [0x80, 0xff, 0x7f, 1, 0x80, 1, 0xff, 0xfe] }

/-- What a load leaves pending. -/
def loads (big : Bool) (i : Instr) : Option (Option (Reg × Word)) :=
  after (exec i (loading big)) (·.seq.loadPending)

/-- 95_test_vectors.md V6, big-endian. -/
theorem test_loads_big_endian :
    loads true (.lb 1 2 0) = some (some (2, 0xffffff80)) ∧ loads true (.lbu 1 2 1) = some (some (2, 0xff)) ∧
    loads true (.lh 1 2 2) = some (some (2, 0x7f01)) ∧ loads true (.lhu 1 2 6) = some (some (2, 0xfffe)) ∧
    loads true (.lw 1 2 4) = some (some (2, 0x8001fffe)) ∧
    loads true (.lwl 1 2 1) = some (some (2, 0xff7f01dd)) ∧
    loads true (.lwr 1 2 1) = some (some (2, 0xaabb80ff)) := by decide

/-- 95_test_vectors.md V6, little-endian. -/
theorem test_loads_little_endian :
    loads false (.lb 1 2 3) = some (some (2, 1)) ∧ loads false (.lbu 1 2 0) = some (some (2, 0x80)) ∧
    loads false (.lh 1 2 0) = some (some (2, 0xffffff80)) ∧ loads false (.lhu 1 2 6) = some (some (2, 0xfeff)) ∧
    loads false (.lw 1 2 4) = some (some (2, 0xfeff0180)) ∧
    loads false (.lwl 1 2 1) = some (some (2, 0xff80ccdd)) ∧
    loads false (.lwr 1 2 1) = some (some (2, 0xaa017fff)) := by decide

/-- The word at 0xa0002000, 00 11 22 33 before a store. -/
def stores (big : Bool) (i : Instr) : Option (List Byte) :=
  after (exec i { loading big with mem := placed big 0x2000 [0, 0x11, 0x22, 0x33] })
    (fun s => [0x2000, 0x2001, 0x2002, 0x2003].map s.memoryByte)

/-- 95_test_vectors.md V7, big-endian. -/
theorem test_stores_big_endian :
    stores true (.sb 1 2 3) = some [0, 0x11, 0x22, 0xdd] ∧ stores true (.sh 1 2 0) = some [0xcc, 0xdd, 0x22, 0x33] ∧
    stores true (.sw 1 2 0) = some [0xaa, 0xbb, 0xcc, 0xdd] ∧
    stores true (.swl 1 2 1) = some [0, 0xaa, 0xbb, 0xcc] ∧
    stores true (.swr 1 2 1) = some [0xcc, 0xdd, 0x22, 0x33] := by decide

/-- 95_test_vectors.md V7, little-endian. -/
theorem test_stores_little_endian :
    stores false (.sb 1 2 0) = some [0xdd, 0x11, 0x22, 0x33] ∧ stores false (.sh 1 2 2) = some [0, 0x11, 0xdd, 0xcc] ∧
    stores false (.sw 1 2 0) = some [0xdd, 0xcc, 0xbb, 0xaa] ∧
    stores false (.swl 1 2 1) = some [0xbb, 0xaa, 0x22, 0x33] ∧
    stores false (.swr 1 2 1) = some [0, 0xdd, 0xcc, 0xbb] := by decide

/-- What an exception left: EPC, ExcCode, BD, BadVAddr, the low six bits of Status, the pc. -/
structure Record where
  epc : Word
  code : BitVec 5
  bd : Bool
  badVAddr : Word
  modes : BitVec 6
  pc : Word
deriving DecidableEq, Repr

/-- The record a state shows. -/
def record (s : State) : Record :=
  ⟨s.cp0.epc, s.cp0.cause.excCode, s.cp0.cause.bd, s.cp0.badVAddr,
    (statusWord s.cp0.status).extractLsb' 0 6, s.pc⟩

/-- 95_test_vectors.md V8 and W6. -/
theorem test_exceptions :
    after (exec (.syscall 0) (stat 0x34 (start 0 0))) record =
      some ⟨0x80001000, 8, false, 0, 0b010000, 0x80000080⟩ ∧
    after (exec (.brk 7) (at_ 0x00400000 (stat 0x00400003 (start 0 0)))) record =
      some ⟨0x00400000, 9, false, 0, 0b001100, 0xbfc00180⟩ ∧
    after (exec (.lw 1 2 1) (start 0x80002000 0)) record =
      some ⟨0x80001000, 4, false, 0x80002001, 0, 0x80000080⟩ ∧
    after (exec (.sh 1 2 3) (slot (start 0x80002000 0))) record =
      some ⟨0x80000ffc, 5, true, 0x80002003, 0, 0x80000080⟩ ∧
    after (exec (.lwc1 1 2 8) (start 0x80000001 0)) (fun s => (s.cp0.cause.ce, s.cp0.cause.excCode)) =
      some (1, 11) ∧
    after (step (fed { quietInput with dataReply := .busError, fetchReply := .busError }
      (boot .r3081))) record = some ⟨0xbfc00000, 6, false, 0, 0, 0xbfc00180⟩ := by decide

/-- 95_test_vectors.md V9. -/
theorem test_cp0 :
    after (exec (.mtc0 1 12) (stat 0x00700000 (start 0 0))) (fun s => statusWord s.cp0.status) =
      some 0x00200000 ∧
    after (exec (.mtc0 1 13) (start 0xffffffff 0)) (fun s => causeWord s.cp0.cause s.interruptLines) =
      some 0x300 ∧
    after (exec (.mtc0 1 3) (start 0xac3fffff 0)) (fun s => configWord s.chip s.cp0.config) =
      some 0xac000000 ∧
    after (exec (.mfc0 8 3) (start 0 0)) (·.seq.loadPending) = some (some (8, 0x2c000000)) ∧
    after (exec .rfe (stat 0x34 (start 0 0))) (fun s => (statusWord s.cp0.status).extractLsb' 0 6) =
      some 0x3d ∧
    after (exec (.mfc0 8 14) (at_ 0x00400000 (stat 2 (start 0 0)))) record =
      some ⟨0x00400000, 11, false, 0, 0b001000, 0x80000080⟩ := by decide

/-- 95_test_vectors.md V10: an enabled interrupt, and an FPA trap taken on its instruction. -/
theorem test_interrupts :
    after (step (fed { quietInput with int := 1 } (stat 0x401 (boot .r3081)))) (fun s =>
      (record s, causeWord { s.cp0.cause with ce := 0 } s.interruptLines)) =
      some (⟨0xbfc00000, 0, false, 0, 0b000100, 0x80000080⟩, 0x400) ∧
    after (exec (.divS 4 2 0) (((start 0 0).withFcr31 (fcr31OfWord 0x400)).writeFgr 2 0x3f800000 |>
      stat 0x20002001)) (fun s => (fcr31Word 0 s.fcr31, s.fgrValue 0, s.pc)) =
      some (0x8420, 0, 0x80000080) := by decide

/-- 60_exceptions.md R450, R455: a masked trap keeps the line asserted through an operation that does not
trap, and a CTC1 that clears Exceptions lowers it. -/
theorem test_fpaLine_held :
    after (exec (.movS 2 4) trapped) (fun s => (s.fcr31.exceptions, s.interruptLines)) =
      some (0, 0b001000) ∧
    after (exec (.ctc1 0 31) trapped) (fun s => s.interruptLines) = some 0 := by decide

/-- 71_bus_interface.md R551: four stores wait behind a write on the bus, the next one stalls. -/
theorem test_storesBehindDeadWrite :
    after (exec (.sw 1 2 0) (regs 0xa0000000 7 edge).blockBus) (fun s =>
      (s.waitingStores.length, s.seq.waiting)) = some (4, false) ∧
    after (exec (.sw 1 2 0) deadBus) (fun s => (s.waitingStores.length, s.seq.waiting)) =
      some (4, true) := by decide

/-- 95_test_vectors.md V11: the TLB instructions, and the exceptions of entries and misses. -/
theorem test_tlb :
    after (exec .tlbr (top.withIndex ⟨true, 63⟩)) (fun s => (entryHiWord s.cp0.entryHi, entryLoWord s.cp0.entryLo)) =
      some (0x7ffff0c0, 0x12345e00) ∧
    after (exec .tlbp top) (fun s => indexWord s.cp0.index) = some 0x3f00 ∧
    after (exec .tlbwi (top.withIndex ⟨false, 9⟩)) (fun s => (s.tlbEntry 9).hi) = some ⟨0x7ffff, 3⟩ ∧
    after (exec .tlbwr (top.withEntryLo ⟨5, true, true, true, true⟩)) (fun s => (s.tlbEntry 63).lo.pfn) =
      some 5 ∧
    after (exec (.sw 1 2 0) (regs 0x7ffff004 0 topReadOnly)) record =
      some ⟨0xbfc00000, 1, false, 0x7ffff004, 0, 0xbfc00180⟩ ∧
    after (exec (.lw 1 2 0) (regs 0x00500000 0 top)) (fun s => (record s, contextWord s.cp0.context)) =
      some (⟨0xbfc00000, 2, false, 0x00500000, 0, 0xbfc00100⟩, 0x1400) := by decide

/-- A state with FPA operands f2 and f4. -/
def fpa (a b : Word) (rm : BitVec 2) : State :=
  let s := stat 0x20000000 (start 0 0)
  ((s.writeFgr 2 a).writeFgr 4 b).withFcr31 { s.fcr31 with rm := rm }

/-- FGR0 and FCR31 after an operation. -/
def computes (i : Instr) (a b : Word) (rm : BitVec 2) : Option (Word × Word) :=
  after (exec i (fpa a b rm)) (fun s => (s.fgrValue 0, fcr31Word 0 s.fcr31 &&& 0x83fffc))

/-- 95_test_vectors.md V12, single precision. -/
theorem test_fpa_arithmetic_single :
    computes (.addS 4 2 0) 0x3f800000 0x33800000 2 = some (0x3f800001, 0x1004) ∧
    computes (.subS 4 2 0) 0x3f800000 0x40000000 0 = some (0xbf800000, 0) ∧
    computes (.mulS 4 2 0) 0x7f7fffff 0x40000000 3 = some (0x7f7fffff, 0x5014) ∧
    computes (.mulS 4 2 0) 0x00800000 0x3f000000 0 = some (0, 0x20000) ∧
    computes (.divS 4 2 0) 0x3f800000 0x40400000 0 = some (0x3eaaaaab, 0x1004) ∧
    computes (.divS 4 2 0) 0xbf800000 0 0 = some (0xff800000, 0x8020) ∧
    computes (.absS 2 0) 0xc0000000 0 0 = some (0x40000000, 0) ∧
    computes (.negS 2 0) 0 0 0 = some (0x80000000, 0) ∧
    computes (.movS 2 0) 0x7fc00000 0 0 = some (0x7fc00000, 0) := by decide

/-- 95_test_vectors.md V12, conversions: 2^24 + 1, -2.5 and 1.5. -/
theorem test_fpa_conversions :
    computes (.cvtSW 2 0) 0x01000001 0 0 = some (0x4b800000, 0x1004) ∧
    computes (.cvtWS 2 0) 0xc0200000 0 3 = some (0xfffffffd, 0x1004) ∧
    computes (.cvtWS 2 0) 0x4f000000 0 0 = some (0, 0x20000) ∧
    after (exec (.cvtDS 2 0) (fpa 0x3fc00000 0 0)) (·.fgrValue 1) = some 0x3ff80000 ∧
    after (exec (.cvtDW 2 0) (fpa 0xfffffffe 0 0)) (·.fgrValue 1) = some 0xc0000000 ∧
    after (exec (.cvtSD 2 0) ((fpa 0x10000000 0 2).writeFgr 3 0x3ff00000)) (·.fgrValue 0) =
      some 0x3f800001 ∧
    after (exec (.cvtWD 2 0) ((fpa 0 0 0).writeFgr 3 0x3fe00000)) (·.fgrValue 0) = some 0 := by decide

/-- 95_test_vectors.md V12, double precision: 3 times 2, and the copy of a NaN pattern. -/
theorem test_fpa_double :
    after (exec (.mulD 4 2 0) (((fpa 0 0 0).writeFgr 3 0x40080000).writeFgr 5 0x40000000))
      (fun s => (s.fgrValue 1, s.fgrValue 0)) = some (0x40180000, 0) ∧
    after (exec (.movD 2 0) ((fpa 1 0 0).writeFgr 3 0x7ff00000)) (fun s => (s.fgrValue 1, s.fgrValue 0)) =
      some (0x7ff00000, 1) := by decide

/-- 95_test_vectors.md V12, compares: C and V. -/
theorem test_fpa_compares :
    computes (.cLtS 4 2) 0x3f800000 0x40000000 0 = some (0, 0x800000) ∧
    computes (.cLtS 4 2) 0x3f800000 0x7f800001 0 = some (0, 0x10040) ∧
    computes (.cUltS 4 2) 0x3f800000 0x7f800001 0 = some (0, 0x800000) ∧
    computes (.cUnS 4 2) 0x3f800000 0x40000000 0 = some (0, 0) ∧
    computes (.cNgtS 4 2) 0x40000000 0x3f800000 0 = some (0, 0) ∧
    after (exec (.cEqD 4 2) ((fpa 0 0 0).writeFgr 5 0x80000000)) (·.fcr31.c) = some true := by decide

/-- 95_test_vectors.md V13: stores to the data cache, and a flush of one entry. -/
theorem test_caches :
    after (exec (.sb 1 2 0) (regs 0x80000000 0xaaaabbbb hot)) (fun s => s.writeBuffer) =
      some [⟨0, 0xf, 0xbb112222⟩] ∧
    after (exec (.sb 1 2 0) (regs 0x80001000 0xaaaabbbb hot)) (fun s => s.writeBuffer.map (·.lanes)) =
      some [8] ∧
    after (exec (.sb 1 0 0) (regs 0x80000000 0 (stat 0x10000 hot))) (fun s => (s.dcache.tags, s.writeBuffer)) =
      some ([], []) := by decide

/-- 20_memory.md R82, R91: SW 0x11223344 and, after a reset to the other byte order, the lanes as they
were: the byte at offset 0 is lane 0. -/
theorem test_lanes_outlive_reset :
    after (exec (.sw 1 2 0) (start 0xa0002000 0x11223344)) (fun s =>
      let t := s.drain.reboot { Config.resetMode with bigEndian := false }
      (s.memoryByte 0x2000, t.memoryByte 0x2000, t.memoryWord (wordAddress 0x2000))) =
      some (0x11, 0x44, 0x11223344) := by decide

/-- A cached LW of a word with a store posted, the bus doing `events` between its fetch and its read. -/
def meanwhile (events : List BusEvent) : Option (Option (Reg × Word)) :=
  let s := (regs 0xa0002000 0 (at_ 0x80001000 (boot .r3081))).post
    ⟨wordAddress 0x2000, 0xf, 0x11223344⟩
  after (step (fed { quietInput with dataEvents := events }
    (s.fillWord .instr (wordAddress 0x1000) 0x8c220000 false))) (·.seq.loadPending)

/-- 71_bus_interface.md R548, R560: a write stored or not, and a master's write, before the read; and a
write that is never acknowledged, behind which the read waits. -/
theorem test_data_events :
    meanwhile [] = some (some (2, 0x11223344)) ∧
    meanwhile [.write .stored, .dma [⟨wordAddress 0x2000, 3, 0x5566, false⟩]] =
      some (some (2, 0x11225566)) ∧
    meanwhile [.write .ignored, .dma [⟨wordAddress 0x2000, 3, 0x5566, false⟩]] =
      some (some (2, 0x5566)) ∧
    meanwhile [.write .noAnswer, .write .stored] = some none := by decide

/-- The host's two questions on one word: ADDIU r1, r2, -1 as the first instruction after reset. -/
theorem test_withFetchWord : decodeTableWord 32 0x2441ffff = some (.addiu 2 1 0xffff) ∧
    after (step (State.reset.withFetchWord 32 0x2441ffff)) (fun s => (s.gprValue 1, s.pc)) =
      some (0xffffffff, 0xbfc00004) := by decide

end Sys2Proof.Tests
end

/-! PROOFS. How a step reaches the fetch, what each answer of the fetch makes of it, and statement O8. -/

namespace Sys2Proof.Machine

/-! ## From the step to its issue (00_scope.md R12) -/

theorem step_of_issue_run {s u : State} {i : Instr} (h : s.issue = .run i u) : step s = exec i u := by
  simp only [step, h]

theorem step_of_issue_done {s : State} {o : Result} (h : s.issue = .done o) : step s = o := by
  simp only [step, h]

/-! ## From the issue to the fetch (60_exceptions.md R432, R472; 70_reset_and_hazards.md R485) -/

@[simp] theorem State.sample_mode (s : State) : s.sample.mode = s.mode := by
  unfold State.sample
  split <;> rfl

@[simp] theorem State.sample_seq (s : State) : s.sample.seq = s.seq := by
  unfold State.sample
  split <;> rfl

theorem State.stuck_sample_eq_false {s : State} (htri : s.mode.triState = false)
    (hwait : s.seq.waiting = false) : s.sample.stuck = false := by
  simp [State.stuck, htri, hwait]

theorem State.issueSampled_of_served {s t : State} (hreset : s.env.reset = none)
    (hstuck : s.stuck = false) (hbus : s.serveBus = .ok t) : s.issueSampled = t.issueServed := by
  simp [State.issueSampled, hreset, hstuck, hbus]

theorem State.issueServed_of_not_halting {s : State} (h : s.halting = false) :
    s.issueServed = s.issueRunning := by
  simp [State.issueServed, h]

theorem State.issueRunning_of_no_interrupt {s : State} (h : s.takesInterrupt = false) :
    s.issueRunning = s.fetchDecode := by
  simp [State.issueRunning, h]

/-- Nothing that comes before the fetch ends the step: its issue is that of the fetch
(00_scope.md R12; 60_exceptions.md R432). -/
theorem State.issue_eq_fetchDecode {s t : State} (hreset : s.sample.env.reset = none)
    (htri : s.mode.triState = false) (hwait : s.seq.waiting = false)
    (hbus : s.sample.serveBus = .ok t) (hhalt : t.halting = false)
    (hint : t.takesInterrupt = false) : s.issue = t.fetchDecode :=
  calc s.issue = t.issueServed :=
        State.issueSampled_of_served hreset (State.stuck_sample_eq_false htri hwait) hbus
    _ = t.issueRunning := State.issueServed_of_not_halting hhalt
    _ = t.fetchDecode := State.issueRunning_of_no_interrupt hint

/-! ## What the fetch answers (20_memory.md R99) -/

theorem State.fetchDecode_of_ok {s u : State} {w : Word} {i : Instr} (hfetch : s.fetchWord = .ok w u)
    (hdecode : decode w = .ok i) : s.fetchDecode = .run i u.serveData := by
  simp only [State.fetchDecode, hfetch, hdecode]

theorem State.fetchDecode_of_exc {s u : State} {x : Exc} (h : s.fetchWord = .exc x u) :
    s.fetchDecode = .done (u.raise x) := by
  simp only [State.fetchDecode, h]

theorem State.fetchDecode_of_never {s u : State} (h : s.fetchWord = .never u) :
    s.fetchDecode = .done (.next u.waitForBus) := by
  simp only [State.fetchDecode, h]

/-- An address exception at pc is the fetch's exception, before anything is read
(20_memory.md R99, R110, R111). -/
theorem State.fetchWord_of_address_exc {s u : State} {x : Exc}
    (h : s.address s.pc .fetch (s.pc.extractLsb' 0 2 == 0) = .exc x u) :
    s.fetchWord = .exc x s := by
  have hu : u = s := State.address_exc h
  simp only [State.fetchWord, h, Access.bind, hu]

/-! ## Between fetch and data access (71_bus_interface.md R560) -/

theorem State.serveData_of_no_events {s : State} (h : s.env.dataEvents = []) : s.serveData = s := by
  simp [State.serveData, h]

/-! ## The obligation -/

/-- Settles O8: nothing before the fetch ends the step, and each answer of the fetch is followed
through decoding. -/
theorem stepRunsDecodedInstruction : Obligations.StepRunsDecodedInstruction := by
  unfold Obligations.StepRunsDecodedInstruction
  intro s t hreset htri hwait hbus hhalt hint
  have hissue : s.issue = t.fetchDecode :=
    State.issue_eq_fetchDecode hreset htri hwait hbus hhalt hint
  have hexc : ∀ {x : Exc} {u : State}, t.fetchWord = .exc x u → step s = u.raise x :=
    fun h => step_of_issue_done (hissue.trans (State.fetchDecode_of_exc h))
  refine ⟨fun w u i hfetch hdecode => ?_, fun x u hfetch => ?_, fun x u haddr => ?_,
    fun u hfetch => ?_⟩
  · have henv : u.env = s.sample.env :=
      (State.env_fetchWord hfetch).trans (State.env_serveBus hbus)
    refine ⟨step_of_issue_run (hissue.trans (State.fetchDecode_of_ok hfetch hdecode)),
      (State.env_serveData u).trans henv, fun hnone => State.serveData_of_no_events ?_⟩
    rw [henv, hnone]
  · rw [hexc hfetch]
    exact ⟨rfl, State.raise_shape u x⟩
  · exact hexc (State.fetchWord_of_address_exc haddr)
  · exact step_of_issue_done (hissue.trans (State.fetchDecode_of_never hfetch))

end Sys2Proof.Machine

/-! PROOFS. The shapes of what an instruction comes to, one constructor each: what holds of every shape holds
of every instruction but MTC0 and CTC1, which have lemmas of their own. -/

namespace Sys2Proof.Machine

/-- What an instruction other than MTC0 and CTC1 comes to. A predicate on results that every shape has is
proved by induction over these, not over the 131 instructions. -/
inductive ExecShape (s : State) : Result → Prop
  | refused (r : Refusal) : ExecShape s (.refused r)
  | raise (x : Exc) : ExecShape s (s.raise x)
  | ite {c : Prop} [Decidable c] {o p : Result} (h : ExecShape s o) (g : ExecShape s p) :
      ExecShape s (if c then o else p)
  | register (r : Reg) (v : Word) : ExecShape s (.next (s.retire.writeReg r v))
  | hi (v : Word) : ExecShape s (.next (s.retire.withHi v))
  | lo (v : Word) : ExecShape s (.next (s.retire.withLo v))
  | hiLo (h l : Word) : ExecShape s (.next ((s.retire.withHi h).withLo l))
  | transfer (target : Option Word) : ExecShape s (.next (s.advance true target))
  | link (target : Option Word) (r : Reg) (v : Word) :
      ExecShape s (.next ((s.advance true target).writeReg r v))
  | deferred (r : Reg) (v : Word) : ExecShape s (.next (s.retire.deferLoad r v))
  | deferredFp (r : Reg) (v : Word) : ExecShape s (.next (s.retire.deferFpLoad r v))
  | load (va : Word) (n : Width) (r : Reg) (f : Word → Word) :
      ExecShape s ((s.memRead va n).finish fun w t => .next (t.retire.deferLoad r (f w)))
  | loadLanes (va : Word) (r : Reg) (f : Word → Word) :
      ExecShape s ((s.memReadLanes va).finish fun w t => .next (t.retire.deferLoad r (f w)))
  | loadFp (va : Word) (r : Reg) :
      ExecShape s ((s.memRead va .word).finish fun w t => .next (t.retire.deferFpLoad r w))
  | store (va : Word) (n : Width) (v : Word) :
      ExecShape s ((s.memWrite va n v).finish fun _ t => .next t.retire)
  | storeLanes (va : Word) (l : Lanes) (v : Word) :
      ExecShape s ((s.memWriteLanes va l v).finish fun _ t => .next t.retire)
  | index (v : IndexReg) : ExecShape s (.next (s.withIndex v).retire)
  | tlbRead (h : EntryHi) (l : EntryLo) :
      ExecShape s (.next ((s.withEntryHi h).withEntryLo l).retire)
  | tlbWrite (i : BitVec 6) (e : TlbEntry) : ExecShape s (.next (s.writeTlb i e).retire)
  | returnFromException : ExecShape s (.next s.returnFromException.retire)
  | fpa (o : FpOutcome) (write : State → Raw → State)
      (hw : ∀ t, ∃ f, write t o.value = { t with fgr := f }) : ExecShape s (s.finishFp o write)
  | compare (cond : BitVec 4) (r : Relation) : ExecShape s (s.finishCompare cond r)

namespace ExecShape

variable {s : State}

theorem fpaInstruction {k : Result} (h : ExecShape s k) : ExecShape s (s.fpaInstruction k) :=
  .ite (.raise _) (.ite (.refused _) h)

theorem fpaOperation {b : Bool} {k : Result} (h : ExecShape s k) : ExecShape s (s.fpaOperation b k) :=
  .fpaInstruction (.ite h (.refused _))

theorem cp0Instruction {k : Result} (h : ExecShape s k) : ExecShape s (s.cp0Instruction k) :=
  .ite h (.raise _)

theorem tlbInstruction {k : Result} (h : ExecShape s k) : ExecShape s (s.tlbInstruction k) :=
  .cp0Instruction (.ite (.refused _) (.ite (.refused _) h))

theorem resultOrOverflow (o : Bool) (r : Reg) (v : Word) : ExecShape s (s.resultOrOverflow o r v) :=
  .ite (.raise _) (.register r v)

theorem jump (target : Option Word) : ExecShape s (s.transfer target) :=
  .ite (.refused _) (.transfer target)

theorem jumpLink (r : Reg) (target : Option Word) : ExecShape s (s.transferLink r target) :=
  .ite (.refused _) (.link target r _)

theorem branchCoprocessor (z : BitVec 2) (b : Bool) (offset : BitVec 16) :
    ExecShape s (s.branchCoprocessor z b offset) := .ite (jump _) (.raise _)

theorem finishSingle (fd : Reg) (o : FpOutcome) : ExecShape s (s.finishSingle fd o) :=
  .fpa o _ fun _ => ⟨_, rfl⟩

theorem finishDouble (fd : Reg) (o : FpOutcome) : ExecShape s (s.finishDouble fd o) :=
  .fpa o _ fun _ => ⟨_, rfl⟩

theorem compareSingle (cond : BitVec 4) (fs ft : Reg) : ExecShape s (s.compareSingle cond fs ft) :=
  fpaOperation (.compare ..)

theorem compareDouble (cond : BitVec 4) (fs ft : Reg) : ExecShape s (s.compareDouble cond fs ft) :=
  fpaOperation (.compare ..)

/-- TLBP finds no entry, one, or two (44_cp0_instructions.md R295). -/
theorem probe : ExecShape s s.probe := by
  unfold State.probe
  split
  · exact .index _
  · exact .index _
  · exact .refused _

end ExecShape

/-- What each instruction but MTC0 and CTC1 comes to. -/
theorem exec_shape (i : Instr) (s : State) (hm : ∀ rt rd, i ≠ .mtc0 rt rd)
    (hc : ∀ rt fs, i ≠ .ctc1 rt fs) : ExecShape s (exec i s) := by
  cases i with
  | mtc0 rt rd => exact absurd rfl (hm rt rd)
  | ctc1 rt fs => exact absurd rfl (hc rt fs)
  | lb | lh | lw | lbu | lhu => exact .load ..
  | lwl | lwr => exact .loadLanes ..
  | sb | sh | sw => exact .store ..
  | swl | swr => exact .storeLanes ..
  | addi | add | sub => exact .resultOrOverflow ..
  | addiu | slti | sltiu | andi | ori | xori | lui | addu | subu | and | or | xor | nor | slt | sltu
  | sll | srl | sra | sllv | srlv | srav | mfhi | mflo => exact .register ..
  | mult | multu => exact .hiLo ..
  | div | divu => exact .ite (.hiLo ..) (.hiLo ..)
  | mthi => exact .hi _
  | mtlo => exact .lo _
  | j | jr | beq | bne | blez | bgtz | bltz | bgez => exact .jump _
  | jal | jalr | bltzal | bgezal => exact .jumpLink ..
  | syscall | brk => exact .raise _
  | bc0f | bc0t | bc2f | bc2t | bc3f | bc3t => exact .branchCoprocessor ..
  | mfc0 => exact .cp0Instruction (.deferred ..)
  | tlbr => exact .tlbInstruction (.tlbRead ..)
  | tlbwi | tlbwr => exact .tlbInstruction (.tlbWrite ..)
  | tlbp => exact .tlbInstruction .probe
  | rfe => exact .cp0Instruction .returnFromException
  | lwc1 => exact .fpaInstruction (.loadFp ..)
  | swc1 => exact .fpaInstruction (.store ..)
  | mfc1 => exact .fpaInstruction (.deferred ..)
  | mtc1 => exact .fpaInstruction (.deferredFp ..)
  | cfc1 => exact .fpaInstruction (.ite (.deferred ..) (.ite (.deferred ..) (.refused _)))
  | bc1f | bc1t => exact .fpaInstruction (.jump _)
  | addS | subS | mulS | divS | absS | negS | movS | cvtSD | cvtSW | cvtWS | cvtWD =>
    exact .fpaOperation (.finishSingle ..)
  | addD | subD | mulD | divD | absD | negD | movD | cvtDS | cvtDW =>
    exact .fpaOperation (.finishDouble ..)
  | cFS | cUnS | cEqS | cUeqS | cOltS | cUltS | cOleS | cUleS | cSfS | cNgleS | cSeqS | cNglS | cLtS
  | cNgeS | cLeS | cNgtS => exact .compareSingle ..
  | cFD | cUnD | cEqD | cUeqD | cOltD | cUltD | cOleD | cUleD | cSfD | cNgleD | cSeqD | cNglD | cLtD
  | cNgeD | cLeD | cNgtD => exact .compareDouble ..

end Sys2Proof.Machine

/-! PROOFS. The invariant of the machine: it holds after reset, every instruction keeps it, and so does
everything else a step does. Statements O1, O2 and O3. -/

namespace Sys2Proof.Machine

/-! ## Reset (10_state.md R78) -/

theorem Inv.resetOf (chip : Chip) (m : ModeVector) : Inv (State.resetOf chip m) where
  memory := Memory.wf_nil
  writeBuffer := Nat.zero_le _
  random := show 8 ≤ (63 : BitVec 6).toNat by decide
  baseTs h := show (!chip.hasTlb) = true from (congrArg not h).trans rfl
  fpInt _ := show (3 : BitVec 3).toNat < 6 ∧ (3 : BitVec 3).toNat < 6 by decide
  pending _ _ h := by cases h
  window := Nat.zero_le _
  readBuffer := rfl

/-- Settles O1: each clause reads a field of the state R78 describes. -/
theorem resetState : Obligations.ResetState := by
  unfold Obligations.ResetState
  intro chip m
  refine ⟨rfl, rfl, rfl, rfl, ?_, ?_, ?_, ?_, ?_, rfl, rfl, rfl, rfl, rfl, rfl, rfl, rfl⟩ <;>
    cases h : chip.hasTlb <;> simp [State.resetOf, resetCp0, resetStatus, h] <;> rfl

/-- Settles O2: the invariant read off the reset state. -/
theorem resetHoldsInvariant : Obligations.ResetHoldsInvariant := by
  unfold Obligations.ResetHoldsInvariant
  exact ⟨Inv.resetOf, Inv.resetOf _ _⟩

/-- Reset in mid-run keeps memory and drops what the buffers hold (70_reset_and_hazards.md R482). -/
theorem Inv.reboot {s : State} (h : Inv s) (m : ModeVector) : Inv (s.reboot m) := by
  obtain ⟨-, hw, hr, ht, hf, hp, hn, hb⟩ := Inv.resetOf s.chip m
  exact ⟨h.memory, hw, hr, ht, hf, hp, hn, hb⟩

/-! ## The part of the state the invariant is about -/

/-- What the invariant reads of a state, in one value. -/
def State.invariantPart (s : State) :=
  (s.mem, s.writeBuffer, s.cp0.random, s.chip, s.cp0.status.ts, s.cp0.config.fpInt,
    s.seq.configOld.fpInt, s.seq.loadPending, s.seq.configWindow, s.readBuffer, s.seq.busBlocked)

/-- A state that agrees on that part satisfies the invariant too. -/
theorem Inv.of_part {s t : State} (h : Inv s) (e : t.invariantPart = s.invariantPart) : Inv t := by
  simp only [State.invariantPart, Prod.mk.injEq] at e
  obtain ⟨h1, h2, h3, h4, h5, h6, h7, h8, h9, h10, h11⟩ := e
  exact h.congr h1 h2 h3 h4 h5 h6 h7 h8 h9 h10 h11

/-! ## Instructions -/

theorem Inv.retire {s : State} (h : Inv s) : Inv s.retire := h.advance false none

theorem InvResult.fpTrap {s : State} (h : Inv s) (e : FpExceptions) : InvResult (s.fpTrap e) :=
  .ite (.raise (h.recordFp e) .int) (.next (h.recordFp e).retire)

theorem InvResult.finishFp {s : State} (h : Inv s) (o : FpOutcome) (write : State → Raw → State)
    (hw : ∀ t, ∃ f, write t o.value = { t with fgr := f }) : InvResult (s.finishFp o write) := by
  refine .ite (.fpTrap h _) (.next ?_)
  obtain ⟨f, hf⟩ := hw (s.recordFp (settleExceptions false s.fcr31.enables o.exceptions)).retire
  rw [hf]
  exact (h.recordFp _).retire.of_part rfl

theorem InvResult.finishCompare {s : State} (h : Inv s) (cond : BitVec 4) (r : Relation) :
    InvResult (s.finishCompare cond r) :=
  .ite (.fpTrap h _) (.next (((h.recordFp _).withFcr31 _).retire.of_part rfl))

/-- Every shape an instruction has keeps the invariant. -/
theorem ExecShape.inv {s : State} {o : Result} (hs : Inv s) (h : ExecShape s o) : InvResult o := by
  induction h with
  | refused r => exact .refused r
  | raise x => exact .raise hs x
  | ite _ _ h g => split; exacts [h, g]
  | register r v => exact .next (hs.retire.writeReg r v)
  | hi v => exact .next (hs.retire.withHi v)
  | lo v => exact .next (hs.retire.withLo v)
  | hiLo h l => exact .next ((hs.retire.withHi h).withLo l)
  | transfer target => exact .next (hs.advance true target)
  | link target r v => exact .next ((hs.advance true target).writeReg r v)
  | deferred r v => exact .next (hs.retire.deferLoad r v)
  | deferredFp r v => exact .next (hs.retire.deferFpLoad r v)
  | load va n r f => exact (hs.memRead va n).finish fun _ _ h => .next (h.retire.deferLoad ..)
  | loadLanes va r f => exact (hs.memReadLanes va).finish fun _ _ h => .next (h.retire.deferLoad ..)
  | loadFp va r => exact (hs.memRead va .word).finish fun _ _ h => .next (h.retire.deferFpLoad ..)
  | store va n v => exact (hs.memWrite va n v).finish fun _ _ h => .next h.retire
  | storeLanes va l v => exact (hs.memWriteLanes va l v).finish fun _ _ h => .next h.retire
  | index v => exact .next (Inv.retire (hs.of_part rfl))
  | tlbRead h l => exact .next (Inv.retire (hs.of_part rfl))
  | tlbWrite i e => exact .next (hs.writeTlb i e).retire
  | returnFromException => exact .next (hs.withStatus s.cp0.status.pop (.inl rfl)).retire
  | fpa o write hw => exact .finishFp hs o write hw
  | compare cond r => exact .finishCompare hs cond r

/-- CTC1 writes FCR31 alone (46_fpa_instructions.md R349). -/
theorem InvResult.ctc1 {s : State} (h : Inv s) (rt fs : Reg) : InvResult (exec (.ctc1 rt fs) s) := by
  refine .ite (.raise h _) (.ite (.refused _) ?_)
  split
  · exact .next ((h.loadFcr31 _).retire.of_part rfl)
  split
  · exact .next h.retire
  · exact .refused _

/-- A Config field in force is the new or the old one (70_reset_and_hazards.md R511). -/
theorem State.inForce_cases {α : Type} [DecidableEq α] (s : State) (u : FreeUse) (f : ConfigReg → α) :
    s.inForce u f = f s.cp0.config ∨ s.inForce u f = f s.seq.configOld := by
  unfold State.inForce
  split
  · exact .inl rfl
  split
  · exact .inl rfl
  split
  · exact .inl rfl
  · exact .inr rfl

/-- FPInt in force is never reserved on a part with an FPA (10_state.md R57). -/
theorem Inv.fpIntInForce_lt {s : State} (h : Inv s) (hf : s.chip.hasFpa = true) :
    s.fpIntInForce.toNat < 6 := by
  obtain ⟨hnew, hold⟩ := h.fpInt hf
  rcases s.inForce_cases .configFpInt (·.fpInt) with e | e <;>
    simpa only [State.fpIntInForce, e]

/-- Writing Config keeps the invariant when FPInt is not reserved. -/
theorem Inv.withConfig {s : State} (h : Inv s) (v : ConfigReg)
    (hv : s.chip.hasFpa = true → v.fpInt.toNat < 6) : Inv (s.withConfig v) := by
  obtain ⟨hm, hw, hr, ht, hf, hp, hn, hb⟩ := h
  exact ⟨hm, hw, hr, ht, fun hc => ⟨hv hc, (hf hc).2⟩, hp, hn, hb⟩

theorem Inv.openConfigWindow {s : State} (h : Inv s) (old : ConfigReg)
    (ho : s.chip.hasFpa = true → old.fpInt.toNat < 6) : Inv (s.openConfigWindow old) := by
  obtain ⟨hm, hw, hr, ht, hf, hp, hn, hb⟩ := h
  exact ⟨hm, hw, hr, ht, fun hc => ⟨(hf hc).1, ho hc⟩, hp, Nat.le_refl 10, hb⟩

theorem Inv.afterAcChange {s : State} (h : Inv s) (b : Bool) : Inv (s.afterAcChange b) := by
  unfold State.afterAcChange
  split
  · exact h.of_part rfl
  · exact h

theorem State.afterAcChange_chip (s : State) (b : Bool) : (s.afterAcChange b).chip = s.chip := by
  unfold State.afterAcChange; split <;> rfl

/-- MTC0 to Config refuses a reserved FPInt on a part with an FPA (10_state.md R57, D38). -/
theorem InvResult.writeConfig {s : State} (h : Inv s) (v : Word) : InvResult (s.writeConfig v) := by
  unfold State.writeConfig
  refine .ite (.next h.retire) ?_
  split
  · exact .refused _
  next hfp =>
    refine .next (((h.afterAcChange _).withConfig _ fun hc => ?_).retire.openConfigWindow _ fun hc => ?_)
    · rw [State.afterAcChange_chip] at hc
      simpa [hc] using hfp
    · refine h.fpIntInForce_lt ?_
      simpa [State.afterAcChange_chip] using hc

theorem InvResult.writeStatus {s : State} (h : Inv s) (v : Word) : InvResult (s.writeStatus v) := by
  refine .ite (.refused _) (.next ?_)
  exact (h.withStatus (statusOfWrite s.cp0.status v) (.inl rfl)).retire.of_part rfl

theorem InvResult.writeTlbRegister {s : State} (h : Inv s) (f : State → State) (hf : Inv (f s)) :
    InvResult (s.writeTlbRegister f) := by
  have hu : Inv (if s.chip.hasTlb then f s else s) := by split; exacts [hf, h]
  exact .next (hu.retire.of_part rfl)

/-- MTC0 writes one register of CP0, or nothing (44_cp0_instructions.md R290). -/
theorem InvResult.writeCp0 {s : State} (h : Inv s) (n : Reg) (v : Word) :
    InvResult (s.writeCp0 n v) := by
  unfold State.writeCp0
  split
  · exact .writeTlbRegister h _ (h.of_part rfl)
  · exact .writeTlbRegister h _ (h.of_part rfl)
  · exact .writeConfig h v
  · exact .next (Inv.retire (h.of_part rfl))
  · exact .writeTlbRegister h _ (h.of_part rfl)
  · exact .writeStatus h v
  · exact .next (Inv.retire (h.of_part rfl))
  · exact .next h.retire

/-- Every instruction keeps the invariant. -/
theorem Inv.exec {s : State} (h : Inv s) (i : Instr) : InvResult (exec i s) := by
  by_cases hm : ∃ rt rd, i = .mtc0 rt rd
  · obtain ⟨rt, rd, rfl⟩ := hm
    exact .ite (.writeCp0 h rd _) (.raise h _)
  by_cases hc : ∃ rt fs, i = .ctc1 rt fs
  · obtain ⟨rt, fs, rfl⟩ := hc
    exact .ctc1 h rt fs
  · exact (exec_shape i s (fun rt rd e => hm ⟨rt, rd, e⟩) (fun rt fs e => hc ⟨rt, fs, e⟩)).inv h

/-! ## What comes before the instruction (00_scope.md R12) -/

theorem Inv.sample {s : State} (h : Inv s) : Inv s.sample := by
  unfold State.sample
  split <;> exact h.of_part rfl

/-- A fold that may be refused keeps the invariant when each of its steps does. -/
theorem Inv.foldlM {α : Type} (f : State → α → Except Refusal State)
    (hf : ∀ {s t : State} {a : α}, Inv s → f s a = .ok t → Inv t) (l : List α) {s t : State} (h : Inv s)
    (e : l.foldlM f s = .ok t) : Inv t := by
  induction l generalizing s with
  | nil => cases e; exact h
  | cons a l ih =>
    rw [List.foldlM_cons] at e
    cases ha : f s a with
    | error r => rw [ha] at e; cases e
    | ok u => rw [ha] at e; exact ih (hf h ha) e

theorem Inv.dmaCoherent {s t : State} {d : DmaWrite} (h : Inv s) (e : s.dmaCoherent d = .ok t) :
    Inv t := by
  unfold State.dmaCoherent at e
  split at e
  · split at e
    · cases e
    · cases e; exact (h.dmaStore d).invalidateWord ..
  · cases e; exact h.dmaStore d

/-- A coherent grant finds the read buffer empty and empties the write buffer (71_bus_interface.md
R562). -/
theorem Inv.boundaryEvent {s t : State} {e : BoundaryEvent} (h : Inv s)
    (ht : s.boundaryEvent e = .ok t) : Inv t := by
  cases e with
  | bus e => cases ht; exact h.busEvent e
  | coherentDma writes =>
    simp only [State.boundaryEvent, State.coherentGrant, h.drainReadBuffer] at ht
    split at ht
    · cases ht; exact h
    split at ht
    · exact Inv.foldlM _ Inv.dmaCoherent writes h.drain ht
    · cases ht; exact h.busEvent _

theorem Inv.serveBus {s t : State} (h : Inv s) (e : s.serveBus = .ok t) : Inv t :=
  Inv.foldlM _ Inv.boundaryEvent _ h e

theorem Inv.wake {s : State} (h : Inv s) : Inv s.wake :=
  h.of_part rfl

theorem Inv.halt {s : State} (h : Inv s) : Inv s.halt :=
  h.of_part rfl

theorem InvResult.undefinedWord {s : State} (h : Inv s) (e : DecodeError) :
    InvResult (s.undefinedWord e) := by
  cases e with
  | reservedInstruction => exact .raise h _
  | undefinedBcond => exact .refused _
  | undefinedCoprocessorOp z => exact .ite (.raise h _) (.ite (.refused _) (.refused _))
  | reservedFpaOp => exact .ite (.raise h _) (.ite (.refused _) (.fpTrap h _))

/-- What the step comes to before an instruction runs satisfies the invariant. -/
def InvIssue : Issue → Prop
  | .done o => InvResult o
  | .run _ t => Inv t

theorem Inv.fetchDecode {s : State} (h : Inv s) : InvIssue s.fetchDecode := by
  obtain ⟨hok, hexc, hnever⟩ := h.fetchWord
  unfold State.fetchDecode
  split
  next hf =>
    split
    · exact (hok _ _ hf).serveData
    · exact InvResult.undefinedWord (hok _ _ hf) _
  next hf => exact InvResult.raise (hexc _ _ hf) _
  next hf => exact InvResult.next (hnever _ hf).waitForBus
  next => exact InvResult.refused _

theorem Inv.issueRunning {s : State} (h : Inv s) : InvIssue s.issueRunning := by
  unfold State.issueRunning
  split
  · exact InvResult.raise h _
  · exact h.fetchDecode

theorem Inv.issueServed {s : State} (h : Inv s) : InvIssue s.issueServed := by
  unfold State.issueServed
  split
  · split
    · exact InvResult.next h.halt
    · exact h.wake.issueRunning
  · exact h.issueRunning

theorem Inv.issueSampled {s : State} (h : Inv s) : InvIssue s.issueSampled := by
  unfold State.issueSampled
  split
  · exact InvResult.next (h.reboot _)
  split
  · exact InvResult.next h.stall
  split
  next hb => exact (h.serveBus hb).issueServed
  next => exact InvResult.refused _

/-- Settles O3: the invariant goes from the sampled state through the bus, the fetch and the instruction. -/
theorem stepKeepsInvariant : Obligations.StepKeepsInvariant := by
  unfold Obligations.StepKeepsInvariant
  intro s t hs ht
  have hi : InvIssue s.issue := hs.sample.issueSampled
  unfold step at ht
  split at ht
  next h => rw [h] at hi; exact hi t ht
  next h => rw [h] at hi; exact Inv.exec hi _ t ht

end Sys2Proof.Machine

/-! PROOFS. The layouts of the CP0 registers and of FCR31 (10_state.md sections 2 and 3), and r0. Statements
O14 and O16. -/

namespace Sys2Proof.Machine

/-- Settles O14: r0 is never stored, never pending, never written (10_state.md R21). -/
theorem registerZero : Obligations.RegisterZero := by
  unfold Obligations.RegisterZero
  intro s v
  exact ⟨rfl, s.readReg_zero, s.readMerged_zero, rfl, rfl⟩

/-- A field above another, both shifted: each stands at bits of its own. -/
theorem setWidth_append_shiftLeft {n m : Nat} (x : BitVec n) (y : BitVec m) (k : Nat) :
    (x ++ y).setWidth 32 <<< k = x.setWidth 32 <<< (m + k) ||| y.setWidth 32 <<< k := by
  apply BitVec.eq_of_getLsbD_eq
  intro i hi
  simp only [BitVec.getLsbD_or, BitVec.getLsbD_shiftLeft, BitVec.getLsbD_setWidth,
    BitVec.getLsbD_append, hi, decide_true, Bool.true_and]
  by_cases hk : i < k
  · simp [hk, show i < m + k by omega]
  by_cases hm : i - k < m
  · simp [hk, hm, show i < m + k by omega, show i - k < 32 by omega]
  · have hy : y.getLsbD (i - k) = false := BitVec.getLsbD_of_ge _ _ (by omega)
    simp [hk, hm, hy, show ¬ i < m + k by omega, show i - k < 32 by omega,
      show i - (m + k) = i - k - m by omega]
    omega

/-- A word is itself, not shifted: where the fields of a layout start to be taken apart. -/
theorem word_eq_setWidth_shiftLeft (v : Word) : v = v.setWidth 32 <<< 0 := by simp

/-- The free bits of a read of FCR31, 31:24 and 22:18, stand outside its fields (10_state.md R64). -/
theorem fcr31Word_and_fields (f : Word) (x : Fcr31) :
    fcr31Word f x &&& 0x0083ffff#32 = fcr31Word 0 x := by
  apply BitVec.eq_of_getLsbD_eq
  intro i hi
  simp only [fcr31Word, BitVec.getLsbD_and, BitVec.getLsbD_append]
  interval_cases i <;> simp

/-- Settles O16: each layout is taken apart field by field. -/
theorem registerLayouts : Obligations.RegisterLayouts := by
  unfold Obligations.RegisterLayouts
  refine ⟨fun p x => ?_, fun x => ?_, fun x => ?_, fun x => ?_, fun x => ?_, fun c x => ?_, fun x => ?_,
    fun x ip => ?_, fun f x => ?_⟩
  · rw [word_eq_setWidth_shiftLeft (indexWord _)]
    simp only [indexWord, setWidth_append_shiftLeft]
    simp
  · rw [word_eq_setWidth_shiftLeft (randomWord _)]
    simp only [randomWord, setWidth_append_shiftLeft]
    simp
  · rw [word_eq_setWidth_shiftLeft (entryLoWord _)]
    simp only [entryLoWord, setWidth_append_shiftLeft]
    simp
  · rw [word_eq_setWidth_shiftLeft (entryHiWord _)]
    simp only [entryHiWord, setWidth_append_shiftLeft]
    simp
  · rw [word_eq_setWidth_shiftLeft (contextWord _)]
    simp only [contextWord, setWidth_append_shiftLeft]
    simp
  · rw [word_eq_setWidth_shiftLeft (configWord ..)]
    simp only [configWord, setWidth_append_shiftLeft]
    simp
  · rw [word_eq_setWidth_shiftLeft (statusWord _)]
    simp only [statusWord, setWidth_append_shiftLeft]
    simp
  · rw [word_eq_setWidth_shiftLeft (causeWord ..)]
    simp only [causeWord, setWidth_append_shiftLeft]
    simp
  · rw [fcr31Word_and_fields, word_eq_setWidth_shiftLeft (fcr31Word ..)]
    simp only [fcr31Word, setWidth_append_shiftLeft]
    simp

end Sys2Proof.Machine

/-! PROOFS. How every instruction ends: it takes an exception, waits for the bus, or completes, and what that
leaves of the hazard windows (70_reset_and_hazards.md R500 to R511). -/

namespace Sys2Proof.Machine

/-- An instruction completes without touching the Config fields in force but to count the window down; the
other windows may open. -/
def CompletesOffConfig (s t : State) : Prop :=
  ∃ cond cp0 cacheCtl, CompletesWith s cond cp0 cacheCtl s.seq.configOld (s.seq.configWindow - 1) t

/-- An instruction completes and opens neither the window of R507 nor that of R509. -/
def CompletesOffCp0 (s t : State) : Prop :=
  ∃ cond, CompletesWith s cond false false s.seq.configOld (s.seq.configWindow - 1) t

theorem CompletesWith.offCp0 {s t : State} {cond : Option Bool}
    (h : CompletesWith s cond false false s.seq.configOld (s.seq.configWindow - 1) t) :
    CompletesOffCp0 s t := ⟨cond, h⟩

theorem CompletesOffCp0.offConfig {s t : State} (h : CompletesOffCp0 s t) : CompletesOffConfig s t := by
  obtain ⟨cond, h⟩ := h
  exact ⟨cond, false, false, h⟩

theorem Ends.mono {s : State} {done done' : State → Prop} {o : Result} (h : Ends s done o)
    (hd : ∀ t, done t → done' t) : Ends s done' o :=
  fun t e => (h t e).imp_right (.imp_right (hd t))

/-- An instruction of any shape opens no window of CP0. -/
theorem ExecShape.ends {s : State} {o : Result} (h : ExecShape s o) : Ends s (CompletesOffCp0 s) o := by
  have plain {p : Result} (e : Ends s (CompletesPlainly s) p) : Ends s (CompletesOffCp0 s) p :=
    e.mono fun _ => CompletesWith.offCp0
  have done (b : Bool) (target : Option Word) : CompletesPlainly s (s.advance b target) :=
    completesPlainly_advance b target rfl rfl
  induction h with
  | refused r => exact .refused r
  | raise x => exact .raise x rfl rfl rfl
  | ite _ _ h g => exact .ite h g
  | register r v => exact plain (s.result_ends r v)
  | hi v => exact plain (.next ((done false none).congr rfl rfl))
  | lo v => exact plain (.next ((done false none).congr rfl rfl))
  | hiLo h l => exact plain (s.setHiLo_ends h l)
  | transfer target => exact plain (.next (done true target))
  | link target r v => exact plain (.next ((done true target).congr (by simp) (by simp)))
  | deferred r v => exact plain (.next ((done false none).deferLoad r v))
  | deferredFp r v => exact plain (.next ((done false none).deferFpLoad r v))
  | load va n r f =>
    exact plain ((s.memRead_alwaysKeeps va n).finish fun _ _ h1 h2 =>
      .next ((completesPlainly_advance false none h1 h2).deferLoad ..))
  | loadLanes va r f =>
    exact plain ((s.memReadLanes_alwaysKeeps va).finish fun _ _ h1 h2 =>
      .next ((completesPlainly_advance false none h1 h2).deferLoad ..))
  | loadFp va r =>
    exact plain ((s.memRead_alwaysKeeps va .word).finish fun _ _ h1 h2 =>
      .next ((completesPlainly_advance false none h1 h2).deferFpLoad ..))
  | store va n v =>
    exact plain ((s.memWrite_alwaysKeeps va n v).finish fun _ _ h1 h2 => s.retire_ends h1 h2)
  | storeLanes va l v =>
    exact plain ((s.memWriteLanes_alwaysKeeps va l v).finish fun _ _ h1 h2 => s.retire_ends h1 h2)
  | index v => exact plain (s.retire_ends rfl rfl)
  | tlbRead h l => exact plain (s.retire_ends rfl rfl)
  | tlbWrite i e => exact plain (s.retire_ends rfl rfl)
  | returnFromException => exact plain (s.retire_ends rfl rfl)
  | fpa o write hw => exact plain (s.finishFp_ends o write hw)
  | compare cond r => exact (s.finishCompare_ends cond r).mono fun _ ⟨c, _, h⟩ => ⟨c, h⟩

/-- CTC1 opens no window but that of R506. -/
theorem execCtc1_ends (rt fs : Reg) (s : State) : Ends s (CompletesOffCp0 s) (exec (.ctc1 rt fs) s) := by
  refine .fpaInstruction ?_
  have done {u : State} (hn : u.nextPc = s.nextPc) (hq : u.seq = s.seq) : CompletesPlainly s u.retire :=
    completesPlainly_advance false none hn hq
  split
  · obtain ⟨hpc, hf, hp, -, hw, hc, ho, hn⟩ := done (u := s.loadFcr31 (fcr31OfWord (s.readReg rt))) rfl rfl
    exact .next ⟨some s.fcr31.c, hpc, hf, hp, rfl, hw, hc, ho, hn⟩
  split
  · exact .next (done rfl rfl).offCp0
  · exact .refused _

/-- No instruction but MTC0 opens a window of CP0 (70_reset_and_hazards.md R507, R509, R511). -/
theorem exec_ends_offCp0 (i : Instr) (s : State) (hm : ∀ rt rd, i ≠ .mtc0 rt rd) :
    Ends s (CompletesOffCp0 s) (exec i s) := by
  by_cases hc : ∃ rt fs, i = .ctc1 rt fs
  · obtain ⟨rt, fs, rfl⟩ := hc
    exact execCtc1_ends rt fs s
  · exact (exec_shape i s hm fun rt fs e => hc ⟨rt, fs, e⟩).ends

/-- MTC0 to Config completes, whatever it leaves of the window, and keeps the notes of how instructions
were fetched. -/
theorem State.writeConfig_ends (s : State) (v : Word) :
    Ends s (fun t => ∃ old n, CompletesWith s none false false old n t) (s.writeConfig v) := by
  unfold State.writeConfig
  refine .ite (.next ⟨_, _, completesPlainly_advance false none rfl rfl⟩) (.ite (.refused _) (.next ?_))
  generalize hu : (s.afterAcChange ((configOfWord v).ac != s.cp0.config.ac)).withConfig (configOfWord v) = u
  have hkeep : u.nextPc = s.nextPc ∧ u.seq = s.seq := by
    subst hu; unfold State.afterAcChange; split <;> exact ⟨rfl, rfl⟩
  obtain ⟨hpc, hf, hp, hcond, hw, hc, -, -⟩ := completesPlainly_advance (s := s) false none hkeep.1 hkeep.2
  exact ⟨s.configInForce, 10, hpc, hf, hp, hcond, hw, hc, rfl, rfl⟩

/-- MTC0 to a TLB register opens the window of R507. -/
theorem State.writeTlbRegister_ends (s : State) (f : State → State) (hn : (f s).nextPc = s.nextPc)
    (hq : (f s).seq = s.seq) : Ends s (CompletesOffConfig s) (s.writeTlbRegister f) := by
  have hkeep : (if s.chip.hasTlb then f s else s).nextPc = s.nextPc ∧
      (if s.chip.hasTlb then f s else s).seq = s.seq := by split; exacts [⟨hn, hq⟩, ⟨rfl, rfl⟩]
  obtain ⟨hpc, hf, hp, hcond, -, hc, ho, hw⟩ :=
    completesPlainly_advance (s := s) false none hkeep.1 hkeep.2
  exact .next ⟨none, true, false, hpc, hf, hp, hcond, rfl, hc, ho, hw⟩

/-- MTC0 to Status opens the window of R509 at most. -/
theorem State.writeStatus_ends (s : State) (v : Word) :
    Ends s (CompletesOffConfig s) (s.writeStatus v) := by
  refine .ite (.refused _) (.next ?_)
  obtain ⟨hpc, hf, hp, hcond, hw, -, ho, hn⟩ := completesPlainly_advance (s := s)
    (u := s.withStatus (statusOfWrite s.cp0.status v)) false none rfl rfl
  exact ⟨none, false, s.changesCacheControl v, hpc, hf, hp, hcond, hw, rfl, ho, hn⟩

/-- MTC0 to another register than Config leaves the window of R511 as any instruction does. -/
theorem State.writeCp0_ends (s : State) {n : Reg} (hn : n ≠ 3) (v : Word) :
    Ends s (CompletesOffConfig s) (s.writeCp0 n v) := by
  have plain {u : State} (h1 : u.nextPc = s.nextPc) (h2 : u.seq = s.seq) :
      Ends s (CompletesOffConfig s) (.next u.retire) :=
    (s.retire_ends h1 h2).mono fun _ h => CompletesOffCp0.offConfig h.offCp0
  unfold State.writeCp0
  split
  · exact s.writeTlbRegister_ends _ rfl rfl
  · exact s.writeTlbRegister_ends _ rfl rfl
  next h => exact absurd (BitVec.eq_of_toNat_eq h) hn
  · exact plain rfl rfl
  · exact s.writeTlbRegister_ends _ rfl rfl
  · exact s.writeStatus_ends v
  · exact plain rfl rfl
  · exact plain rfl rfl

/-- No instruction but MTC0 to Config changes the old Config fields, and each that completes counts the
window down by one (70_reset_and_hazards.md R511). -/
theorem exec_ends_offConfig (i : Instr) (s : State) (hm : ∀ rt, i ≠ .mtc0 rt 3) :
    Ends s (CompletesOffConfig s) (exec i s) := by
  by_cases hi : ∃ rt rd, i = .mtc0 rt rd
  · obtain ⟨rt, rd, rfl⟩ := hi
    exact .cp0Instruction (s.writeCp0_ends (fun e => hm rt (e ▸ rfl)) _)
  · exact (exec_ends_offCp0 i s fun rt rd e => hi ⟨rt, rd, e⟩).mono fun _ => CompletesOffCp0.offConfig

end Sys2Proof.Machine

/-! PROOFS. MFC0, and MTC0 to every register (44_cp0_instructions.md R290, R291). Statements O50, O51 and
O52. -/

namespace Sys2Proof.Machine

/-! ## Usable CP0 (44_cp0_instructions.md R296) -/

theorem State.usable_zero {s : State} (h : Cp0Ready s) : s.usable 0 = true := by
  unfold State.usable
  rcases h with h | h <;> simp [h]

theorem State.cp0Instruction_of_ready {s : State} (h : Cp0Ready s) (k : Result) :
    s.cp0Instruction k = k := if_pos (State.usable_zero h)

theorem exec_mfc0 {s : State} (h : Cp0Ready s) (rt rd : Reg) :
    exec (.mfc0 rt rd) s = .next (s.retire.deferLoad rt (s.readCp0 rd)) :=
  State.cp0Instruction_of_ready h _

theorem exec_mtc0 {s : State} (h : Cp0Ready s) (rt rd : Reg) :
    exec (.mtc0 rt rd) s = s.writeCp0 rd (s.readReg rt) :=
  State.cp0Instruction_of_ready h _

/-! ## MFC0 (44_cp0_instructions.md R291) -/

theorem State.tlbRegister_of_hasTlb {s : State} (h : s.chip.hasTlb = true) (v : Word) :
    s.tlbRegister v = v := if_pos h

/-- Settles O50: the value is what `readCp0` gives, and it is deferred like a load. -/
theorem mfc0Results : Obligations.Mfc0Results := by
  unfold Obligations.Mfc0Results
  intro s rt rd hs
  have key (n : Reg) : DeferredResult s rt (s.readCp0 n) (exec (.mfc0 rt n) s) := by
    rw [exec_mfc0 hs]
    exact s.deferLoad_shape rt _
  refine ⟨fun ht => ?_, key 3, key 4, key 8, ?_, key 13, key 14, key 15, _, key rd⟩
  · have tlb (n : Reg) (v : Word) (hv : s.readCp0 n = s.tlbRegister v) :
        DeferredResult s rt v (exec (.mfc0 rt n) s) := by
      have := key n
      rwa [hv, State.tlbRegister_of_hasTlb ht] at this
    exact ⟨tlb 0 _ rfl, tlb 1 _ rfl, tlb 2 _ rfl, tlb 10 _ rfl⟩
  · exact ⟨_, fun hi => if_pos hi, key 12⟩

/-! ## What MTC0 leaves alone -/

/-- What a state is outside CP0, the TLB and the caches, and apart from the windows of the sequencing
state. -/
def State.outsideSystem (s : State) :=
  (s.chip, s.mode, s.gpr, s.hi, s.lo, s.pc, s.nextPc, s.fgr, s.fcr31, s.fpaHeld, s.mem, s.writeBuffer,
    s.seq.loadPending, s.seq.fpLoadPending, s.seq.inDelaySlot)

theorem State.readMerged_congr {s t : State} (hp : t.seq.loadPending = s.seq.loadPending)
    (hg : t.gpr = s.gpr) (r : Reg) : t.readMerged r = s.readMerged r := by
  unfold State.readMerged
  simp only [hp, State.gprValue_congr hg]

theorem State.deliveredFgr_congr {s t : State} (hp : t.seq.fpLoadPending = s.seq.fpLoadPending)
    (hg : t.fgr = s.fgr) (r : Reg) : t.deliveredFgr r = s.deliveredFgr r := by
  unfold State.deliveredFgr
  simp only [hp, State.fgrValue_congr hg]

/-- An instruction that completes from a state `u` which differs from `s` in CP0, the TLB and the caches
only, and then opens windows at most, changes no register and no memory. -/
theorem systemResult_of_retire {s u t : State} {touch : State → Prop}
    (hu : u.outsideSystem = s.outsideSystem) (ht : t.outsideSystem = u.retire.outsideSystem)
    (h : touch t) : SystemResult s touch (.next t) := by
  simp only [State.outsideSystem, Prod.mk.injEq] at hu ht
  obtain ⟨uchip, umode, ugpr, uhi, ulo, -, unext, ufgr, ufcr, uheld, umem, ubuf, uload, ufp, -⟩ := hu
  obtain ⟨tchip, tmode, tgpr, thi, tlo, tpc, tnext, tfgr, tfcr, theld, tmem, tbuf, tload, tfp, tslot⟩ := ht
  have hgpr : KeepsGpr s t := fun r => by
    rw [State.gprValue_congr tgpr, State.retire_eq, State.advance_gprValue,
      State.readMerged_congr uload ugpr]
  have hfgr : ∀ r, t.fgrValue r = s.deliveredFgr r := fun r => by
    rw [State.fgrValue_congr tfgr, State.retire_eq, State.advance_fgrValue,
      State.deliveredFgr_congr ufp ufgr]
  have hmem : t.settledMemory = s.settledMemory :=
    (State.settledMemory_congr tmem tbuf).trans
      ((State.advance_settledMemory u false none).trans (State.settledMemory_congr umem ubuf))
  simp only [State.retire_eq, State.advance_chip, State.advance_mode, State.advance_hi, State.advance_lo,
    State.advance_pc, State.advance_nextPc_none, State.advance_fcr31, State.advance_fpaHeld,
    State.advance_seq] at tchip tmode thi tlo tpc tnext tfcr theld tload tfp tslot
  exact ⟨t, rfl, h, tchip.trans uchip, tmode.trans umode, hgpr, ⟨thi.trans uhi, tlo.trans ulo⟩,
    ⟨tfcr.trans ufcr, theld.trans uheld, hfgr⟩,
    fun a => State.memoryByte_congr (tmode.trans umode) hmem a,
    ⟨tpc.trans unext, by rw [tnext, unext], tslot⟩, tload, tfp⟩

theorem SystemResult.imp {s : State} {touch touch' : State → Prop} {o : Result}
    (h : SystemResult s touch o) (ht : ∀ t, touch t → touch' t) : SystemResult s touch' o := by
  obtain ⟨t, ho, htouch, hrest⟩ := h
  exact ⟨t, ho, ht t htouch, hrest⟩

/-! ## MTC0 but to Status and Config (44_cp0_instructions.md R290) -/

/-- What MTC0 to a TLB register comes to: its one update on E versions, and the window of R507. -/
theorem State.writeTlbRegister_shape (s : State) (f : State → State) (c : Cp0)
    (hf : f s = s.withCp0 c) (cp0 : State → Cp0)
    (hc : ∀ t : State, { (if s.chip.hasTlb then c else s.cp0) with random := t.cp0.random } = cp0 t) :
    SystemResult s (fun t => t.tlb = s.tlb ∧ KeepsCaches s t ∧ t.seq.cp0WriteWindow = true ∧
        t.seq.cacheCtlWindow = false ∧ t.cp0 = cp0 t)
      (s.writeTlbRegister f) := by
  unfold State.writeTlbRegister
  have hu : (if s.chip.hasTlb then f s else s) =
      s.withCp0 (if s.chip.hasTlb then c else s.cp0) := by
    rw [hf]; split <;> rfl
  rw [hu]
  refine systemResult_of_retire (u := s.withCp0 (if s.chip.hasTlb then c else s.cp0)) rfl rfl
    ⟨by simp [State.openCp0Window], by simp [State.openCp0Window, KeepsCaches],
      by simp [State.openCp0Window], by simp [State.openCp0Window], ?_⟩
  rw [← hc]
  simp [State.openCp0Window]

/-- What MTC0 to a register without a window comes to. -/
theorem State.withCp0_retire_shape (s : State) (c : Cp0) :
    SystemResult s (fun t => t.tlb = s.tlb ∧ KeepsCaches s t ∧ t.seq.cp0WriteWindow = false ∧
        t.seq.cacheCtlWindow = false ∧ t.cp0 = { c with random := t.cp0.random })
      (.next (s.withCp0 c).retire) :=
  systemResult_of_retire (u := s.withCp0 c) rfl rfl
    ⟨by simp, by simp [KeepsCaches], by simp, by simp, by simp⟩

/-! The registers MTC0 writes, by number. -/

theorem State.writeCp0_index (s : State) (v : Word) :
    s.writeCp0 0 v = s.writeTlbRegister fun t => t.withIndex (indexOfWord v) := rfl

theorem State.writeCp0_entryLo (s : State) (v : Word) :
    s.writeCp0 2 v = s.writeTlbRegister fun t => t.withEntryLo (entryLoOfWord v) := rfl

theorem State.writeCp0_config (s : State) (v : Word) : s.writeCp0 3 v = s.writeConfig v := rfl

theorem State.writeCp0_context (s : State) (v : Word) : s.writeCp0 4 v =
    .next (s.withCp0 { s.cp0 with
      context := ⟨v.extractLsb' 21 11, s.cp0.context.badVpn⟩ }).retire := rfl

theorem State.writeCp0_entryHi (s : State) (v : Word) :
    s.writeCp0 10 v = s.writeTlbRegister fun t => t.withEntryHi (entryHiOfWord v) := rfl

theorem State.writeCp0_status (s : State) (v : Word) : s.writeCp0 12 v = s.writeStatus v := rfl

theorem State.writeCp0_cause (s : State) (v : Word) : s.writeCp0 13 v =
    .next (s.withCp0 { s.cp0 with
      cause := { s.cp0.cause with sw := v.extractLsb' 8 2 } }).retire := rfl

/-- A register with no write path: MTC0 completes and does nothing (44_cp0_instructions.md R290, D12). -/
theorem State.writeCp0_readOnly (s : State) {rd : Reg} (v : Word)
    (h : rd = 1 ∨ (5 ≤ rd.toNat ∧ rd.toNat ≤ 9) ∨ rd = 11 ∨ 14 ≤ rd.toNat) :
    s.writeCp0 rd v = .next s.retire := by
  have hn : rd.toNat = 1 ∨ (5 ≤ rd.toNat ∧ rd.toNat ≤ 9) ∨ rd.toNat = 11 ∨ 14 ≤ rd.toNat :=
    h.imp (congrArg BitVec.toNat) (.imp_right (.imp_left (congrArg BitVec.toNat)))
  unfold State.writeCp0
  split
  case h_8 => rfl
  all_goals omega

/-- Settles O51: each register through the one update of CP0 its write makes. -/
theorem mtc0Results : Obligations.Mtc0Results := by
  unfold Obligations.Mtc0Results
  refine ⟨fun i s t he hw hm => ?_, fun s rt rd hs => ?_⟩
  · rcases exec_ends_offCp0 i s hm t he with ⟨u, x, rfl, -⟩ | ⟨u, rfl, -⟩ | ⟨cond, h⟩
    · simp
    · simp at hw
    · exact ⟨h.cp0WriteWindow, h.cacheCtlWindow⟩
  simp only [exec_mtc0 hs]
  refine ⟨?_, ?_, ?_, ?_, ?_, fun hrd => ?_⟩
  · rw [State.writeCp0_index]
    exact s.writeTlbRegister_shape _ { s.cp0 with index := indexOfWord (s.readReg rt) } rfl _
      fun t => by split <;> rfl
  · rw [State.writeCp0_entryLo]
    exact s.writeTlbRegister_shape _ { s.cp0 with entryLo := entryLoOfWord (s.readReg rt) } rfl _
      fun t => by split <;> rfl
  · rw [State.writeCp0_entryHi]
    exact s.writeTlbRegister_shape _ { s.cp0 with entryHi := entryHiOfWord (s.readReg rt) } rfl _
      fun t => by split <;> rfl
  · rw [State.writeCp0_context]
    exact s.withCp0_retire_shape _
  · rw [State.writeCp0_cause]
    exact s.withCp0_retire_shape _
  · rw [s.writeCp0_readOnly _ hrd]
    exact s.withCp0_retire_shape s.cp0

/-! ## MTC0 to Status (10_state.md R37, R49; 70_reset_and_hazards.md R509) -/

theorem State.changesCacheControl_eq_false_iff (s : State) (v : Word) :
    s.changesCacheControl v = false ↔
      v.getLsbD 16 = s.cp0.status.isc ∧ v.getLsbD 17 = s.cp0.status.swc := by
  simp [State.changesCacheControl, statusOfWrite]

@[simp] theorem getLsbD_bit (b : Bool) (i : Nat) : (bit b).getLsbD i = (decide (i = 0) && b) := by
  simp [bit, BitVec.getLsbD_ofBool]

/-- Every bit of Status but TS and PE is the one written; TS stays, and PE stays but where a 1 is written
(10_state.md R42, R49). -/
theorem statusWord_statusOfWrite (x : StatusReg) (v : Word) :
    statusWord (statusOfWrite x v) = (v &&& 0xf24fff3f) ||| (statusWord x &&& 0x00200000) |||
      (statusWord x &&& 0x00100000 &&& ~~~v) := by
  apply BitVec.eq_of_getLsbD_eq
  intro i hi
  simp only [statusWord, statusOfWrite, BitVec.getLsbD_or, BitVec.getLsbD_and, BitVec.getLsbD_not,
    BitVec.getLsbD_append, BitVec.getLsbD_extractLsb', getLsbD_bit]
  interval_cases i <;> simp

/-- MTC0 to Status where R509 allows it. -/
theorem State.writeStatus_shape (s : State) (v : Word)
    (h : (s.changesCacheControl v && (s.seq.fetchCached || s.seq.prevFetchCached)) = false) :
    SystemResult s (fun t => t.tlb = s.tlb ∧ KeepsCaches s t ∧
        t.cp0 = { s.cp0 with random := t.cp0.random, status := t.cp0.status } ∧
        t.seq.cp0WriteWindow = false ∧ t.seq.cacheCtlWindow = s.changesCacheControl v ∧
        t.cp0.status = statusOfWrite s.cp0.status v) (s.writeStatus v) := by
  unfold State.writeStatus
  simp only [h, Bool.false_eq_true, if_false]
  exact systemResult_of_retire (u := s.withStatus (statusOfWrite s.cp0.status v)) rfl rfl
    ⟨by simp, by simp [KeepsCaches], by simp, by simp, by simp, by simp⟩

end Sys2Proof.Machine

/-! PROOFS. MTC0 to Config, the fields in force, and statement O52. -/

namespace Sys2Proof.Machine

/-! ## MTC0 to Config (10_state.md R53 to R61; 70_reset_and_hazards.md R511) -/

/-- Every field of Config but Rev is the one written (10_state.md R53, R61). -/
theorem configWord_configOfWord (c : Chip) (x : ConfigReg) (v : Word) :
    configWord c (configOfWord v) = (v &&& 0xff800000) ||| (configWord c x &&& 0x00400000) := by
  apply BitVec.eq_of_getLsbD_eq
  intro i hi
  simp only [configWord, configOfWord, BitVec.getLsbD_or, BitVec.getLsbD_and,
    BitVec.getLsbD_append, BitVec.getLsbD_extractLsb', getLsbD_bit]
  interval_cases i <;> simp

/-- Locked, MTC0 to Config is one more instruction of an open window (10_state.md R54). -/
theorem State.writeConfig_locked {s : State} (h : s.lockInForce = true) (v : Word) :
    SystemResult s (fun t => t.tlb = s.tlb ∧ KeepsCaches s t ∧
        t.seq.configWindow = s.seq.configWindow - 1 ∧ t.seq.configOld = s.seq.configOld ∧
        t.cp0 = { s.cp0 with random := t.cp0.random }) (s.writeConfig v) := by
  unfold State.writeConfig
  rw [if_pos h]
  exact systemResult_of_retire (u := s) rfl rfl ⟨by simp, by simp [KeepsCaches], by simp, by simp, by simp⟩

/-- A reserved FPInt on a part with an FPA is refused (10_state.md R57, D38). -/
theorem State.writeConfig_reserved {s : State} {v : Word} (h : s.lockInForce = false)
    (hf : s.chip.hasFpa = true) (hv : 6 ≤ (v.extractLsb' 26 3).toNat) :
    s.writeConfig v = .refused .reservedFpInt := by
  have hr : (s.chip.hasFpa && decide (6 ≤ (configOfWord v).fpInt.toNat)) = true := by
    simpa [hf, configOfWord] using hv
  simp only [State.writeConfig, h, hr, Bool.false_eq_true, if_false, if_true]

/-- What a change of Config.AC leaves of the caches (20_memory.md R127). -/
theorem State.afterAcChange_outside (s : State) (b : Bool) :
    (s.afterAcChange b).outsideSystem = s.outsideSystem ∧ (s.afterAcChange b).cp0 = s.cp0 ∧
      (s.afterAcChange b).tlb = s.tlb := by
  unfold State.afterAcChange
  split <;> exact ⟨rfl, rfl, rfl⟩

/-- Unlocked, MTC0 to Config writes it and opens a window of ten instructions
(70_reset_and_hazards.md R511). -/
theorem State.writeConfig_shape {s : State} {v : Word} (h : s.lockInForce = false)
    (hv : s.chip.hasFpa = false ∨ (v.extractLsb' 26 3).toNat < 6) :
    SystemResult s (fun t => t.tlb = s.tlb ∧
        t.cp0 = { s.cp0 with random := t.cp0.random, config := configOfWord v } ∧
        t.seq.configWindow = 10 ∧ t.seq.configOld = s.configInForce ∧
        t.icache = (s.afterAcChange (v.getLsbD 23 != s.cp0.config.ac)).icache ∧
        t.dcache = (s.afterAcChange (v.getLsbD 23 != s.cp0.config.ac)).dcache) (s.writeConfig v) := by
  have hr : (s.chip.hasFpa && decide (6 ≤ (configOfWord v).fpInt.toNat)) = false := by
    rcases hv with hv | hv
    · simp [hv]
    · simpa [configOfWord] using fun _ => hv
  simp only [State.writeConfig, h, hr, Bool.false_eq_true, if_false]
  have hac : (configOfWord v).ac = v.getLsbD 23 := rfl
  rw [hac]
  generalize (v.getLsbD 23 != s.cp0.config.ac) = b
  obtain ⟨hout, hcp0, htlb⟩ := s.afterAcChange_outside b
  exact systemResult_of_retire (u := (s.afterAcChange b).withConfig (configOfWord v)) hout rfl
    ⟨by simp [htlb], by simp [hcp0], by simp, by simp, by simp, by simp⟩

/-! ## The fields in force (70_reset_and_hazards.md R511) -/

theorem State.inForce_of_no_window {α : Type} [DecidableEq α] {s : State} (h : s.seq.configWindow = 0)
    (u : FreeUse) (f : ConfigReg → α) : s.inForce u f = f s.cp0.config := if_pos h

theorem State.configInForce_of_no_window {s : State} (h : s.seq.configWindow = 0) :
    s.configInForce = s.cp0.config := by
  simp only [State.configInForce, State.lockInForce, State.dbRefillInForce, State.fpIntInForce,
    State.haltInForce, State.acInForce, State.inForce_of_no_window h]

/-! ## The windows across an instruction (70_reset_and_hazards.md R509, R511) -/

theorem Ends.keeps_fetchNotes {s t : State} {o : Result}
    (h : Ends s (fun t => ∃ cond cp0 ctl old n, CompletesWith s cond cp0 ctl old n t) o)
    (he : o = .next t) :
    t.seq.fetchCached = s.seq.fetchCached ∧ t.seq.prevFetchCached = s.seq.prevFetchCached := by
  rcases h t he with ⟨u, x, rfl, -, -, hq⟩ | ⟨u, rfl, -, -, hq⟩ | ⟨_, _, _, _, _, h⟩
  · simp [hq]
  · simp [hq]
  · exact ⟨h.fetchCached, h.prevFetchCached⟩

/-- No instruction changes the notes of how it and the one before it were fetched. -/
theorem exec_keeps_fetchNotes {i : Instr} {s t : State} (he : exec i s = .next t) :
    t.seq.fetchCached = s.seq.fetchCached ∧ t.seq.prevFetchCached = s.seq.prevFetchCached := by
  by_cases hi : ∃ rt, i = .mtc0 rt 3
  · obtain ⟨rt, rfl⟩ := hi
    refine Ends.keeps_fetchNotes (Ends.cp0Instruction ?_) he
    exact (s.writeConfig_ends _).mono fun _ ⟨old, n, h⟩ => ⟨_, _, _, old, n, h⟩
  · exact ((exec_ends_offConfig i s fun rt e => hi ⟨rt, e⟩).mono fun _ ⟨cond, cp0, ctl, h⟩ =>
      ⟨cond, cp0, ctl, _, _, h⟩).keeps_fetchNotes he

/-- What an instruction but MTC0 to Config does to the window of R511. -/
theorem exec_configWindow {i : Instr} {s t : State} (he : exec i s = .next t)
    (hi : ∀ rt, i ≠ .mtc0 rt 3) : t.seq.configOld = s.seq.configOld ∧
      ((t.pc = s.nextPc ∧ t.seq.configWindow = s.seq.configWindow - 1) ∨
        ((EndsInException s t ∨ EndsInWait s t) ∧ t.seq.configWindow = s.seq.configWindow)) := by
  rcases exec_ends_offConfig i s hi t he with hx | hw | ⟨_, _, _, h⟩
  · have hq : t.seq.configOld = s.seq.configOld ∧ t.seq.configWindow = s.seq.configWindow := by
      obtain ⟨u, x, rfl, -, -, hq⟩ := hx
      simp [hq]
    exact ⟨hq.1, .inr ⟨.inl hx, hq.2⟩⟩
  · have hq : t.seq.configOld = s.seq.configOld ∧ t.seq.configWindow = s.seq.configWindow := by
      obtain ⟨u, rfl, -, -, hq⟩ := hw
      simp [hq]
    exact ⟨hq.1, .inr ⟨.inr hw, hq.2⟩⟩
  · exact ⟨h.configOld, .inl ⟨h.pc, h.configWindow⟩⟩

/-! ## The obligation -/

/-- Settles O52: the writes by the shape each leaves, the windows by how every instruction ends. -/
theorem statusAndConfigWrites : Obligations.StatusAndConfigWrites := by
  unfold Obligations.StatusAndConfigWrites
  refine ⟨fun s rt hs => ?_, fun s => ⟨rfl, State.configInForce_of_no_window, s.inForce_cases _ _,
    s.inForce_cases _ _, s.inForce_cases _ _, s.inForce_cases _ _, s.inForce_cases _ _⟩,
    fun s x => by simp, fun i s t he => ?_⟩
  · simp only [exec_mtc0 hs, State.writeCp0_status, State.writeCp0_config,
      ← State.changesCacheControl_eq_false_iff]
    generalize s.readReg rt = v
    refine ⟨fun h => ?_, fun hc hf => ?_, fun h => State.writeConfig_locked h v, fun h hv => ?_,
      fun h hf hv => State.writeConfig_reserved h hf hv⟩
    · have hallowed : (s.changesCacheControl v && (s.seq.fetchCached || s.seq.prevFetchCached)) = false := by
        rcases h with h | ⟨h1, h2⟩
        · simp [h]
        · simp [h1, h2]
      refine (s.writeStatus_shape v hallowed).imp fun t ⟨htlb, hcaches, hcp0, hw, hctl, hstatus⟩ =>
        ⟨htlb, hcaches, hcp0, hw, by rw [hctl], ?_⟩
      rw [hstatus]
      exact statusWord_statusOfWrite _ v
    · have hrefused : (s.changesCacheControl v && (s.seq.fetchCached || s.seq.prevFetchCached)) = true := by
        simpa [hc] using hf
      simp only [State.writeStatus, hrefused, if_true]
    · refine (State.writeConfig_shape h hv).imp fun t ⟨htlb, hcp0, hw, ho, hi, hd⟩ =>
        ⟨htlb, by rw [hcp0], hw, ho, ?_, ?_⟩
      · rw [hcp0]
        exact configWord_configOfWord ..
      · split
        next hac =>
          rw [hac, bne_self_eq_false] at hi hd
          exact ⟨hi, hd⟩
        next hac =>
          rw [bne_iff_ne.2 hac] at hi hd
          rw [hi, hd]
          exact ⟨rfl, rfl, fun n k => ⟨rfl, rfl, rfl, rfl⟩⟩
  · exact ⟨(exec_keeps_fetchNotes he).1, (exec_keeps_fetchNotes he).2, exec_configWindow he⟩

end Sys2Proof.Machine

/-! PROOFS. The FPA interrupt line: what raises it, and that CTC1 alone lowers it (60_exceptions.md R441,
R450, R455). Statement O11. -/

namespace Sys2Proof.Machine

/-! ## The lines (60_exceptions.md R441) -/

theorem State.interruptLines_of_no_fpa {s : State} (h : s.chip.hasFpa = false) :
    s.interruptLines = s.env.int := by
  simp [State.interruptLines, h]

/-- The line FPInt selects carries the FPA's interrupt, every other line its pin. -/
theorem State.interruptLines_getLsbD {s : State} (hf : s.chip.hasFpa = true) {k n : Nat}
    (hk : s.fpIntInForce.toNat = k) (hn : n < 6) :
    s.interruptLines.getLsbD n = if n = k then s.fpaLine else s.env.int.getLsbD n := by
  have hline : (1#6 <<< k).getLsbD n = decide (n = k) := by
    rw [BitVec.getLsbD_shiftLeft, BitVec.getLsbD_one]
    grind
  unfold State.interruptLines
  simp only [hf, if_true, hk]
  cases s.fpaLine
  · simp only [Bool.false_eq_true, if_false, BitVec.getLsbD_and, BitVec.getLsbD_not, hline]
    split <;> simp [*]
  · simp only [if_true, BitVec.getLsbD_or, hline]
    split <;> simp [*]

/-! ## What raises the line (60_exceptions.md R450) -/

/-- FCR31 asks for the interrupt exactly when its Exceptions would trap. -/
theorem fpaInterrupt_iff (s : State) :
    fpaInterrupt s.fcr31 = true ↔ FpTraps s s.fcr31.exceptions := fpTraps_iff s s.fcr31.exceptions

theorem State.fpaLine_of_interrupt {s : State} (h : fpaInterrupt s.fcr31 = true) :
    s.fpaLine = true := by
  unfold State.fpaLine; rw [h, Bool.or_true]

theorem State.fpaLine_of_held {s : State} (h : s.fpaHeld = true) : s.fpaLine = true := by
  unfold State.fpaLine; rw [h, Bool.true_or]

/-- An operation that does not trap leaves the line as it was (60_exceptions.md R455). -/
theorem State.recordFp_fpaLine_of_not_traps {s : State} {e : FpExceptions} (h : ¬ FpTraps s e) :
    (s.recordFp e).fpaLine = s.fpaLine := by
  have hf : fpaInterrupt (s.recordFp e).fcr31 = false := by
    rw [← Bool.not_eq_true]
    exact fun ht => h ((fpTraps_iff s e).1 ht)
  show (s.fpaLine || _) = s.fpaLine
  rw [hf, Bool.or_false]

/-- Reset lowers the line (60_exceptions.md R450). -/
theorem State.resetOf_fpaLine (chip : Chip) (m : ModeVector) :
    (State.resetOf chip m).fpaLine = false := by
  simp [State.fpaLine, State.resetOf, fpaInterrupt]

/-! ## Ready FPA (46_fpa_instructions.md R340) -/

theorem State.usable_one {s : State} (h : s.cp0.status.cu.getLsbD 1 = true) : s.usable 1 = true := by
  simp [State.usable, h]

theorem State.fpaInstruction_of_ready {s : State} (h : FpaReady s) (k : Result) :
    s.fpaInstruction k = k := by
  obtain ⟨hcu, hfpa⟩ := h
  rw [State.fpaInstruction, State.usable_one hcu, hfpa]
  rfl

theorem exec_ctc1_fcr31 {s : State} (h : FpaReady s) (rt : Reg) :
    exec (.ctc1 rt 31) s = .next (s.writeFcr31 (s.readReg rt)) :=
  State.fpaInstruction_of_ready h _

/-- CTC1 to FCR31 alone decides the line (60_exceptions.md R450; log 28). -/
theorem State.writeFcr31_fpaLine (s : State) (v : Word) :
    (s.writeFcr31 v).fpaLine = fpaInterrupt (s.writeFcr31 v).fcr31 := by
  simp [State.fpaLine, State.writeFcr31]

/-! ## What keeps the line asserted (60_exceptions.md R455) -/

/-- Every next state of an outcome has the FPA interrupt line asserted. -/
def LineAsserted (o : Result) : Prop := ∀ t, o = .next t → t.fpaLine = true

theorem State.fpaLine_congr {s t : State} (hf : t.fcr31 = s.fcr31) (hh : t.fpaHeld = s.fpaHeld) :
    t.fpaLine = s.fpaLine := by
  unfold State.fpaLine; rw [hf, hh]

theorem LineAsserted.next {s : State} (h : s.fpaLine = true) : LineAsserted (.next s) := by
  intro t e; cases e; exact h

theorem LineAsserted.refused (r : Refusal) : LineAsserted (.refused r) := by intro t e; cases e

theorem LineAsserted.raise {s : State} (h : s.fpaLine = true) (x : Exc) : LineAsserted (s.raise x) :=
  .next ((State.fpaLine_congr (by simp) (by simp)).trans h)

theorem LineAsserted.ite {c : Prop} [Decidable c] {o p : Result} (h : LineAsserted o)
    (g : LineAsserted p) : LineAsserted (if c then o else p) := by split; exacts [h, g]

theorem State.advance_fpaLine (s : State) (b : Bool) (target : Option Word) :
    (s.advance b target).fpaLine = s.fpaLine := State.fpaLine_congr (by simp) (by simp)

/-- An access changes nothing of the FPA, whatever it answers. -/
theorem LineAsserted.finish {α : Type} {s : State} {m : Access α} {k : α → State → Result}
    (h : s.fpaLine = true) (hm : AccessAlwaysKeeps s m)
    (hk : ∀ a u, u.fpaLine = true → LineAsserted (k a u)) : LineAsserted (m.finish k) := by
  have keep {u : State} (hu : AccessKeeps s u) : u.fpaLine = true := by
    obtain ⟨-, -, -, -, -, -, -, -, -, hfcr, hheld, -, -⟩ := hu
    rw [State.fpaLine_congr hfcr hheld, h]
  obtain ⟨hok, hexc, hnever⟩ := hm
  cases m with
  | ok a u => exact hk a u (keep (hok a u rfl))
  | exc x u => exact .raise (keep (hexc x u rfl)) x
  | never u => exact .next ((State.fpaLine_congr (by simp) (by simp)).trans (keep (hnever u rfl)))
  | refused r => exact .refused r

theorem LineAsserted.fpTrap {s : State} (h : s.fpaLine = true) (e : FpExceptions) :
    LineAsserted (s.fpTrap e) :=
  have hr := State.recordFp_fpaLine e h
  .ite (.raise hr .int) (.next ((State.advance_fpaLine ..).trans hr))

/-- An instruction of any shape keeps an asserted line asserted. -/
theorem ExecShape.lineAsserted {s : State} {o : Result} (hs : s.fpaLine = true) (h : ExecShape s o) :
    LineAsserted o := by
  have same {t : State} (hf : t.fcr31 = s.fcr31) (hh : t.fpaHeld = s.fpaHeld) :
      LineAsserted (.next t) := .next ((State.fpaLine_congr hf hh).trans hs)
  induction h with
  | refused r => exact .refused r
  | raise x => exact .raise hs x
  | ite _ _ h g => exact .ite h g
  | register r v => exact same (by simp) (by simp)
  | hi v => exact same (by simp) (by simp)
  | lo v => exact same (by simp) (by simp)
  | hiLo h l => exact same (by simp) (by simp)
  | transfer target => exact same (by simp) (by simp)
  | link target r v => exact same (by simp) (by simp)
  | deferred r v => exact same (by simp) (by simp)
  | deferredFp r v => exact same (by simp) (by simp)
  | load va n r f =>
    exact .finish hs (s.memRead_alwaysKeeps va n) fun _ _ h =>
      .next ((State.fpaLine_congr (by simp) (by simp)).trans h)
  | loadLanes va r f =>
    exact .finish hs (s.memReadLanes_alwaysKeeps va) fun _ _ h =>
      .next ((State.fpaLine_congr (by simp) (by simp)).trans h)
  | loadFp va r =>
    exact .finish hs (s.memRead_alwaysKeeps va .word) fun _ _ h =>
      .next ((State.fpaLine_congr (by simp) (by simp)).trans h)
  | store va n v =>
    exact .finish hs (s.memWrite_alwaysKeeps va n v) fun _ _ h =>
      .next ((State.advance_fpaLine ..).trans h)
  | storeLanes va l v =>
    exact .finish hs (s.memWriteLanes_alwaysKeeps va l v) fun _ _ h =>
      .next ((State.advance_fpaLine ..).trans h)
  | index v => exact same (by simp) (by simp)
  | tlbRead h l => exact same (by simp) (by simp)
  | tlbWrite i e => exact same (by simp) (by simp)
  | returnFromException => exact same (by simp) (by simp)
  | fpa o write hw =>
    refine .ite (.fpTrap hs _) (.next ?_)
    obtain ⟨f, hf⟩ := hw (s.recordFp (settleExceptions false s.fcr31.enables o.exceptions)).retire
    rw [hf]
    exact (State.advance_fpaLine _ false none).trans (State.recordFp_fpaLine _ hs)
  | compare cond r =>
    exact .ite (.fpTrap hs _) (.next (State.fpaLine_of_held (by simpa using hs)))

/-- MTC0 changes nothing of the FPA. -/
theorem State.writeCp0_lineAsserted {s : State} (hs : s.fpaLine = true) (n : Reg) (v : Word) :
    LineAsserted (s.writeCp0 n v) := by
  have same {t : State} (hf : t.fcr31 = s.fcr31) (hh : t.fpaHeld = s.fpaHeld) :
      LineAsserted (.next t) := .next ((State.fpaLine_congr hf hh).trans hs)
  have tlb (f : State → State) (hf : (f s).fcr31 = s.fcr31) (hh : (f s).fpaHeld = s.fpaHeld) :
      LineAsserted (s.writeTlbRegister f) := by
    unfold State.writeTlbRegister
    split
    · exact same (by simpa using hf) (by simpa using hh)
    · exact same (by simp [State.openCp0Window]) (by simp)
  unfold State.writeCp0
  split
  · exact tlb _ rfl rfl
  · exact tlb _ rfl rfl
  · refine .ite (same (by simp) (by simp)) (.ite (.refused _) ?_)
    unfold State.afterAcChange
    split <;> exact same (by simp) (by simp)
  · exact same (by simp) (by simp)
  · exact tlb _ rfl rfl
  · exact .ite (.refused _) (same (by simp) (by simp))
  · exact same (by simp) (by simp)
  · exact same (by simp) (by simp)

/-- No instruction but CTC1 to FCR31 lowers the line (60_exceptions.md R455). -/
theorem exec_lineAsserted {i : Instr} {s : State} (hs : s.fpaLine = true)
    (hi : ∀ rt, i ≠ .ctc1 rt 31) : LineAsserted (exec i s) := by
  by_cases hm : ∃ rt rd, i = .mtc0 rt rd
  · obtain ⟨rt, rd, rfl⟩ := hm
    exact .ite (State.writeCp0_lineAsserted hs rd _) (.raise hs _)
  by_cases hc : ∃ rt fs, i = .ctc1 rt fs
  · obtain ⟨rt, fs, rfl⟩ := hc
    have hfs : fs ≠ 31 := fun e => hi rt (e ▸ rfl)
    refine .ite (.raise hs _) (.ite (.refused _) ?_)
    rw [if_neg hfs]
    exact .ite (.next ((State.advance_fpaLine ..).trans hs)) (.refused _)
  · exact (exec_shape i s (fun rt rd e => hm ⟨rt, rd, e⟩) fun rt fs e => hc ⟨rt, fs, e⟩).lineAsserted hs

/-! ## The obligation -/

/-- Settles O11: the lines bit by bit, then each way the FPA's own line rises, stays or falls. -/
theorem interruptLines : Obligations.InterruptLines := by
  unfold Obligations.InterruptLines
  refine ⟨fun s h => State.interruptLines_of_no_fpa h, fun s hf hw _ n hn => ?_,
    fun s => ⟨fpaInterrupt_iff s, State.fpaLine_of_interrupt⟩,
    fun s e => ⟨State.recordFp_fpaLine_of_traps, State.recordFp_fpaLine_of_not_traps⟩,
    fun s rt h => ⟨_, exec_ctc1_fcr31 h rt, ?_⟩, State.resetOf_fpaLine,
    fun i s t hs he hi => exec_lineAsserted hs hi t he⟩
  · exact State.interruptLines_getLsbD hf
      (congrArg BitVec.toNat (State.inForce_of_no_window hw .configFpInt (·.fpInt))) hn
  · rw [State.writeFcr31_fpaLine]
    exact fpaInterrupt_iff _

end Sys2Proof.Machine

/-! PROOFS. Stores: lanes and bytes of memory, and what each store of the CPU and the FPA does once its
address is accepted. Statement O43. -/

namespace Sys2Proof.Machine

/-! ## Memory after a store, lane by lane (20_memory.md R81, R82, R120) -/

/-- The byte of memory at the address of a lane. -/
theorem State.memoryByte_laneAddress (s : State) (w : WordAddr) {k : Nat} (hk : k < 4) :
    s.memoryByte (laneAddress s.mode.bigEndian w k) = Memory.read s.settledMemory (laneCell w k) := by
  unfold State.memoryByte
  rw [byteCell_laneAddress _ _ _ hk]

/-- A state whose memory is that of another one with a store applied has those lanes stored and every
other byte as before. -/
theorem storesLanes_of_settled {s t : State} {w : WordAddr} {l : Lanes} {v : Word}
    (hm : t.mode = s.mode)
    (h : t.settledMemory = Memory.apply s.settledMemory { addr := w, lanes := l, data := v }) :
    StoresLanes s t w l v := by
  refine ⟨fun k hk hl => ?_, fun a ha => ?_⟩
  · rw [← hm, State.memoryByte_laneAddress t w hk, h]
    exact Memory.read_writeLanes_lane _ w l v k hk hl
  · unfold State.memoryByte
    rw [hm, h]
    refine Memory.read_writeLanes_other _ w l v _ fun k hk hl e => ha k hk hl ?_
    rw [← byteCell_laneAddress s.mode.bigEndian w k hk] at e
    exact byteCell_inj _ _ _ e

/-! ## Accesses of a store (20_memory.md R97) -/

theorem State.memWrite_ok {s t u : State} {va v pa : Word} {n : Width} {c : Bool}
    (ha : s.address va .store true = .ok (pa, c) t) (hn : n.aligned va = true)
    (hw : t.storeWord (wordAddress pa) c (n.lanes s.bigEndianData va)
      (v <<< (8 * n.lowLane s.bigEndianData va)) = .ok () u) : s.memWrite va n v = .ok () u := by
  unfold State.memWrite
  rw [hn, ha]
  exact hw

theorem State.memWriteLanes_ok {s t u : State} {va v pa : Word} {l : Lanes} {c : Bool}
    (ha : s.address va .store true = .ok (pa, c) t)
    (hw : t.storeWord (wordAddress pa) c l v = .ok () u) : s.memWriteLanes va l v = .ok () u := by
  unfold State.memWriteLanes
  rw [ha]
  exact hw

/-- A store whose word store answers completes there. -/
theorem State.store_of_ok {s u : State} {base rt : Reg} {offset : BitVec 16} {n : Width}
    (h : s.memWrite (s.effectiveAddress base offset) n (n.low (s.readReg rt)) = .ok () u) :
    s.store base rt offset n = .next u.retire := by
  unfold State.store
  rw [h]
  rfl

theorem State.storePartial_of_ok {s u : State} {base rt : Reg} {offset : BitVec 16}
    {lanes : Nat → Lanes} {shift : Nat → Word → Word}
    (h : s.memWriteLanes (s.effectiveAddress base offset)
      (lanes (byteLane s.bigEndianData (s.effectiveAddress base offset)))
      (shift (byteLane s.bigEndianData (s.effectiveAddress base offset)) (s.readReg rt)) = .ok () u) :
    s.storePartial base rt offset lanes shift = .next u.retire := by
  unfold State.storePartial
  simp only [h]
  rfl

theorem exec_swc1_of_ok {s u : State} {base ft : Reg} {offset : BitVec 16} (hs : FpaReady s)
    (h : s.memWrite (s.effectiveAddress base offset) .word (s.readFgr ft) = .ok () u) :
    exec (.swc1 base ft offset) s = .next u.retire := by
  have he : exec (.swc1 base ft offset) s =
      (s.memWrite (s.effectiveAddress base offset) .word (s.readFgr ft)).finish
        fun _ t => .next t.retire := State.fpaInstruction_of_ready hs _
  rw [he, h]
  rfl

/-! ## Lanes of a halfword (20_memory.md R86) -/

/-- An even address has its halfword in the low or the high lanes, by bit 1 and the byte order. -/
theorem Width.lowLane_half {va : Word} (h : va.toNat % 2 = 0) (b : Bool) :
    8 * Width.half.lowLane b va = if b = va.getLsbD 1 then 0 else 16 := by
  have ha : (va.extractLsb' 0 2).toNat = if va.getLsbD 1 then 2 else 0 := by
    rw [BitVec.extractLsb'_toNat, BitVec.getLsbD, Nat.testBit_succ, Nat.testBit_zero]
    simp only [Nat.shiftRight_zero, decide_eq_true_eq]
    split <;> omega
  unfold Width.lowLane
  simp only [ha]
  cases b <;> cases va.getLsbD 1 <;> rfl

/-! ## The byte order in force (10_state.md R39, 20_memory.md R82) -/

theorem State.bigEndianData_of_not_reversed {s : State}
    (h : s.cp0.status.re = false ∨ s.cp0.status.kuc = false) : s.bigEndianData = s.mode.bigEndian := by
  rcases h with h | h <;> simp [State.bigEndianData, h]

theorem State.bigEndianData_of_reversed {s : State} (hr : s.cp0.status.re = true)
    (hk : s.cp0.status.kuc = true) : s.bigEndianData = !s.mode.bigEndian := by
  simp [State.bigEndianData, hr, hk]

/-! ## The obligation -/

/-- Settles O43: each store is its word store, with the lanes and the data in the words of the rules. -/
theorem storeResults : Obligations.StoreResults := by
  unfold Obligations.StoreResults
  refine ⟨fun s => ⟨State.bigEndianData_of_not_reversed, State.bigEndianData_of_reversed⟩,
    fun s t u base rt offset pa c ha => ?_⟩
  have keeps {l : Lanes} {v : Word} (hw : t.storeWord (wordAddress pa) c l v = .ok () u) :
      AccessKeeps s u := accessKeeps_trans (State.address_keeps ha).1 (State.storeWord_keeps hw)
  have word {va v : Word} (hw : t.storeWord (wordAddress pa) c allLanes v = .ok () u) :
      t.storeWord (wordAddress pa) c (Width.word.lanes s.bigEndianData va)
        (v <<< (8 * Width.word.lowLane s.bigEndianData va)) = .ok () u := by
    simpa [Width.lanes, Width.lowLane] using hw
  refine ⟨fun hw => ⟨keeps hw, ?_⟩, fun h2 hw => ⟨keeps hw, ?_⟩, fun h4 hw => ⟨keeps hw, ?_⟩,
    fun hw => ⟨keeps hw, ?_⟩, fun hw => ⟨keeps hw, ?_⟩, fun h4 hs hw => ⟨keeps hw, ?_⟩⟩
  · exact State.store_of_ok (State.memWrite_ok ha rfl hw)
  · rw [← Width.lowLane_half h2] at hw
    exact State.store_of_ok (State.memWrite_ok ha ((Width.aligned_half_iff _).2 h2) hw)
  · exact State.store_of_ok (State.memWrite_ok ha ((Width.aligned_word_iff _).2 h4) (word hw))
  · exact State.storePartial_of_ok (lanes := lanesDown) (shift := fun lane v => v >>> (8 * (3 - lane)))
      (State.memWriteLanes_ok ha hw)
  · exact State.storePartial_of_ok (lanes := lanesUp) (shift := fun lane v => v <<< (8 * lane))
      (State.memWriteLanes_ok ha hw)
  · exact exec_swc1_of_ok hs (State.memWrite_ok ha ((Width.aligned_word_iff _).2 h4) (word hw))

end Sys2Proof.Machine

/-! PROOFS. The moves, loads and stores of the FPA (46_fpa_instructions.md R345 to R350). Statement O54. -/

namespace Sys2Proof.Machine

/-! ## A word of memory as bytes (20_memory.md R81) -/

/-- The byte addresses of the lanes of the word at an aligned address. -/
theorem laneAddress_wordAddress {pa : Word} (h : pa.toNat % 4 = 0) (b : Bool) (k : Nat) :
    laneAddress b (wordAddress pa) k = pa.toNat + if b then 3 - k else k := by
  have hw : (wordAddress pa).toNat = pa.toNat / 4 := by
    have := pa.isLt
    rw [wordAddress, BitVec.extractLsb'_toNat, Nat.shiftRight_eq_div_pow]
    omega
  unfold laneAddress
  omega

theorem State.memoryWord_wordAddress (s : State) {pa : Word} (h : pa.toNat % 4 = 0) :
    s.memoryWord (wordAddress pa) = s.wordAt pa.toNat := by
  have byte (k : Nat) (hk : k < 4) := s.memoryByte_laneAddress (wordAddress pa) hk
  simp only [laneAddress_wordAddress h] at byte
  unfold State.memoryWord Memory.readWord State.wordAt
  rw [← byte 0 (by omega), ← byte 1 (by omega), ← byte 2 (by omega), ← byte 3 (by omega)]
  cases s.mode.bigEndian <;> rfl

/-- The bytes of a stored word are its lanes, each at its address. -/
theorem mem_wordBytes_iff {pa : Word} (h : pa.toNat % 4 = 0) (b : Bool) (v : Word) (p : Nat × Byte) :
    p ∈ Width.word.bytes b pa.toNat v ↔
      ∃ k, k < 4 ∧ p = (laneAddress b (wordAddress pa) k, v.extractLsb' (8 * k) 8) := by
  have four (q : Nat → Prop) : (∃ k, k < 4 ∧ q k) ↔ q 0 ∨ q 1 ∨ q 2 ∨ q 3 := by
    constructor
    · rintro ⟨k, hk, h⟩
      interval_cases k <;> simp [h]
    · rintro (h | h | h | h)
      exacts [⟨0, by omega, h⟩, ⟨1, by omega, h⟩, ⟨2, by omega, h⟩, ⟨3, by omega, h⟩]
  simp only [laneAddress_wordAddress h, four]
  cases b <;> simp [Width.bytes]
  tauto

theorem allLanes_getLsbD {k : Nat} (hk : k < 4) : allLanes.getLsbD k = true := by
  interval_cases k <;> rfl

/-- What a store of a whole word leaves of memory, byte by byte. -/
theorem StoresLanes.word_bytes {s t : State} {pa v : Word} (h : pa.toNat % 4 = 0)
    (hst : StoresLanes s t (wordAddress pa) allLanes v) :
    (∀ p, p ∈ Width.word.bytes s.mode.bigEndian pa.toNat v → t.memoryByte p.1 = p.2) ∧
    (∀ a, (∀ p, p ∈ Width.word.bytes s.mode.bigEndian pa.toNat v → a ≠ p.1) →
      t.memoryByte a = s.memoryByte a) := by
  simp only [mem_wordBytes_iff h]
  refine ⟨?_, fun a ha => hst.2 a fun k hk _ => ha _ ⟨k, hk, rfl⟩⟩
  rintro p ⟨k, hk, rfl⟩
  exact hst.1 k hk (allLanes_getLsbD hk)

/-! ## Accesses to kseg1 (20_memory.md R103) -/

theorem unmappedAddress_mod_four {va : Word} (h : va.toNat % 4 = 0) :
    (unmappedAddress va).toNat % 4 = 0 := by
  have hand : (unmappedAddress va).toNat = va.toNat % 2 ^ 29 := by
    rw [unmappedAddress, BitVec.toNat_and]
    exact Nat.and_two_pow_sub_one_eq_mod va.toNat 29
  omega

/-- An aligned access of kseg1 that memory answers: its address, uncached. -/
theorem UncachedAccess.address {s : State} {va : Word} (h : UncachedAccess s va) (k : AccessKind) :
    s.address va k true = .ok (unmappedAddress va, false) s := by
  obtain ⟨hkuc, hseg, -⟩ := h
  rw [State.address_kernel s va k hkuc]
  exact State.translate_kseg1 s va k hseg

theorem UncachedAccess.memRead_word {s : State} {va : Word} (h : UncachedAccess s va)
    (h4 : va.toNat % 4 = 0) :
    s.memRead va .word = .ok (s.wordAt (unmappedAddress va).toNat) s.drain := by
  unfold State.memRead
  rw [(Width.aligned_word_iff va).2 h4, h.address]
  obtain ⟨-, -, hisc, hbus, hreply⟩ := h
  simp only [Access.bind, State.loadWord_uncached s _ hisc hbus hreply,
    State.memoryWord_wordAddress s (unmappedAddress_mod_four h4)]
  simp [Width.lowLane, Width.low]

theorem UncachedAccess.memWrite_word {s : State} {va : Word} (h : UncachedAccess s va)
    (h4 : va.toNat % 4 = 0) (v : Word) :
    s.memWrite va .word v =
      .ok () (s.post { addr := wordAddress (unmappedAddress va), lanes := allLanes, data := v }) := by
  refine State.memWrite_ok (h.address .store) ((Width.aligned_word_iff va).2 h4) ?_
  obtain ⟨-, -, hisc, hbus, -⟩ := h
  rw [State.storeWord_uncached s _ _ _ hisc hbus]
  simp [Width.lanes, Width.lowLane]

/-- A posted word store that completes: the bytes it leaves, and nothing else changed. -/
theorem State.post_word_shape (s : State) {pa : Word} (h : pa.toNat % 4 = 0) (v : Word) :
    StoreBytesResult s (Width.word.bytes s.mode.bigEndian pa.toNat v)
      (.next (s.post { addr := wordAddress pa, lanes := allLanes, data := v }).retire) := by
  generalize hu : s.post { addr := wordAddress pa, lanes := allLanes, data := v } = u
  have keeps : AccessKeeps s u := hu ▸ accessKeeps_post s _
  have hcp0 : u.cp0 = s.cp0 := by rw [← hu]; simp
  have hcaches : u.icache = s.icache ∧ u.dcache = s.dcache := by rw [← hu]; simp
  have hmem : u.settledMemory = Memory.apply s.settledMemory
      { addr := wordAddress pa, lanes := allLanes, data := v } := by rw [← hu]; simp
  obtain ⟨hchip, hmode, hgpr, hhi, hlo, -, hnext, htlb, hfgr, hfcr, hheld, hseq, -⟩ := keeps
  obtain ⟨hbytes, hother⟩ := (storesLanes_of_settled (s := s) (t := u.retire) (by simpa using hmode)
    (by simpa using hmem)).word_bytes h
  refine ⟨_, rfl, hbytes, hother, fun r => ?_, ⟨by simpa using hhi, by simpa using hlo⟩,
    ⟨by simpa using hfcr, by simpa using hheld, fun r => ?_⟩,
    ⟨by simpa using hchip, by simpa using hmode, by simp [hcp0], by simpa using htlb⟩,
    ⟨by simpa using hcaches.1, by simpa using hcaches.2⟩, ⟨by simpa using hnext, by simp [hnext], by simp⟩,
    by simp [NoPendingLoad], by simp [NoPendingFpLoad]⟩
  · rw [State.retire_eq, State.advance_gprValue, State.readMerged_congr (by rw [hseq]) hgpr]
  · rw [State.retire_eq, State.advance_fgrValue, State.deliveredFgr_congr (by rw [hseq]) hfgr]

/-! ## CTC1 (46_fpa_instructions.md R349) -/

/-- FCR31 and the held line replaced. -/
def State.withControl (s : State) (v : Fcr31) (held : Bool) : State :=
  { s with fcr31 := v, fpaHeld := held }

/-- An instruction that completes with FCR31 and the held line replaced, `old` pending as the old C. -/
theorem State.withControl_shape (s : State) (v : Fcr31) (held : Bool) (old : Option Bool) :
    ControlResult s v held old (.next ((s.withControl v held).retire.withSeq
      { (s.withControl v held).retire.seq with condPending := old })) :=
  ⟨_, rfl, by simp [State.withControl], by simp [State.withControl], rfl,
    fun r => State.advance_fgrValue (s.withControl v held) false none r,
    fun r => State.advance_gprValue (s.withControl v held) false none r,
    ⟨by simp [State.withControl], by simp [State.withControl]⟩,
    ⟨by simp [State.withControl], by simp [State.withControl], by simp [State.withControl],
      by simp [State.withControl]⟩,
    fun a => State.memoryByte_congr (by simp [State.withControl])
      (State.advance_settledMemory (s.withControl v held) false none) a,
    ⟨by simp [State.withControl], by simp [State.withControl]⟩,
    ⟨rfl, rfl, by simp⟩, by simp [NoPendingLoad], by simp [NoPendingFpLoad]⟩

/-! ## The moves with the FPA ready (46_fpa_instructions.md R347 to R350) -/

section
variable {s : State} (h : FpaReady s) (rt fs : Reg)
include h

theorem exec_mfc1 : exec (.mfc1 rt fs) s = .next (s.retire.deferLoad rt (s.readFgr fs)) :=
  State.fpaInstruction_of_ready h _

theorem exec_mtc1 : exec (.mtc1 rt fs) s = .next (s.retire.deferFpLoad fs (s.readReg rt)) :=
  State.fpaInstruction_of_ready h _

theorem exec_cfc1_fcr31 : exec (.cfc1 rt 31) s = .next (s.retire.deferLoad rt s.fcr31Read) :=
  State.fpaInstruction_of_ready h _

theorem exec_cfc1_fcr0 : exec (.cfc1 rt 0) s = .next (s.retire.deferLoad rt (fcr0Word s.chip)) :=
  State.fpaInstruction_of_ready h _

theorem exec_ctc1_fcr0 : exec (.ctc1 rt 0) s = .next s.retire :=
  State.fpaInstruction_of_ready h _

/-- Another control register than 0 and 31 is refused (D27). -/
theorem exec_cfc1_reserved {fs : Reg} (h0 : fs ≠ 0) (h31 : fs ≠ 31) :
    exec (.cfc1 rt fs) s = .refused .reservedFcr :=
  (State.fpaInstruction_of_ready h _).trans (by rw [if_neg h31, if_neg h0])

theorem exec_ctc1_reserved {fs : Reg} (h0 : fs ≠ 0) (h31 : fs ≠ 31) :
    exec (.ctc1 rt fs) s = .refused .reservedFcr :=
  (State.fpaInstruction_of_ready h _).trans (by rw [if_neg h31, if_neg h0])

theorem exec_lwc1_of_ok {u : State} {base ft : Reg} {offset : BitVec 16} {w : Word}
    (hm : s.memRead (s.effectiveAddress base offset) .word = .ok w u) :
    exec (.lwc1 base ft offset) s = .next (u.retire.deferFpLoad ft w) := by
  refine (State.fpaInstruction_of_ready h _).trans ?_
  rw [hm]
  rfl

end

/-! ## The obligation -/

/-- Settles O54: with the FPA ready each move is its meaning, and each meaning has its shape. -/
theorem fpaMoveResults : Obligations.FpaMoveResults := by
  unfold Obligations.FpaMoveResults
  intro s base rt fs offset hs
  refine ⟨fun hacc h4 => ⟨?_, ?_⟩, ?_, ?_, ⟨s.freeWord .fcr31Reserved, ?_⟩, ?_, ?_, ?_,
    fun h0 h31 => ⟨exec_cfc1_reserved hs rt h0 h31, exec_ctc1_reserved hs rt h0 h31⟩⟩
  · rw [exec_lwc1_of_ok hs (hacc.memRead_word h4)]
    exact s.drain.deferFpLoad_shape fs _
  · rw [exec_swc1_of_ok hs (hacc.memWrite_word h4 _)]
    exact s.post_word_shape (unmappedAddress_mod_four h4) _
  · rw [exec_mfc1 hs]
    exact s.deferLoad_shape rt _
  · rw [exec_mtc1 hs]
    exact s.deferFpLoad_shape fs _
  · rw [exec_cfc1_fcr31 hs]
    exact s.deferLoad_shape rt _
  · rw [exec_cfc1_fcr0 hs]
    exact s.deferLoad_shape rt _
  · rw [exec_ctc1_fcr31 hs]
    exact s.withControl_shape (fcr31OfWord (s.readReg rt)) false (some s.fcr31.c)
  · rw [exec_ctc1_fcr0 hs]
    exact s.withControl_shape s.fcr31 s.fpaHeld none

end Sys2Proof.Machine

/-! PROOFS. A cacheable load: hit, miss, refill, bus error, no answer (20_memory.md R125, R126, R132;
71_bus_interface.md R545, R546). Statement O47. -/

namespace Sys2Proof.Machine

/-! ## Folds of state changes -/

/-- What each step of a fold keeps, the fold keeps. -/
theorem foldl_keeps {α β : Type} (p : State → β) (f : State → α → State)
    (hf : ∀ s a, p (f s a) = p s) (l : List α) (s : State) : p (l.foldl f s) = p s := by
  induction l generalizing s with
  | nil => rfl
  | cons a l ih => exact (ih _).trans (hf s a)

theorem State.refill_writeBuffer (s : State) (d : CacheSide) (r : BusReply) (ws : List WordAddr) :
    (s.refill d r ws).writeBuffer = s.writeBuffer :=
  foldl_keeps State.writeBuffer _ (fun _ _ => by simp) _ _

theorem State.refill_cp0 (s : State) (d : CacheSide) (r : BusReply) (ws : List WordAddr) :
    (s.refill d r ws).cp0 = s.cp0 := foldl_keeps State.cp0 _ (fun _ _ => by simp) _ _

theorem State.refillFailed_writeBuffer (s : State) (d : CacheSide) (u : FreeUse) (ws : List WordAddr) :
    (s.refillFailed d u ws).writeBuffer = s.writeBuffer := by
  unfold State.refillFailed
  split
  · exact foldl_keeps State.writeBuffer _ (fun _ _ => by simp) _ _
  · rfl

theorem State.refillFailed_cp0 (s : State) (d : CacheSide) (u : FreeUse) (ws : List WordAddr) :
    (s.refillFailed d u ws).cp0 = s.cp0 := by
  unfold State.refillFailed
  split
  · exact foldl_keeps State.cp0 _ (fun _ _ => by simp) _ _
  · rfl

/-! ## The words of a refill (20_memory.md R126) -/

/-- A word is one of its own block. -/
theorem blockWord_self (w : WordAddr) : blockWord w (w.extractLsb' 0 2) = w := by
  apply BitVec.eq_of_getLsbD_eq
  intro i hi
  unfold blockWord
  rw [BitVec.getLsbD_append]
  split
  next h => simp [h]
  next h =>
    rw [BitVec.getLsbD_extractLsb']
    simp [show i - 2 < 28 by omega, show 2 + (i - 2) = i by omega]

/-- The refill of a data-cache miss leaves the word hitting, as the bus gave it. -/
theorem State.dataLookup_refill (s : State) (r : BusReply) (w : WordAddr)
    (hu : (s.cache s.dataSide).tagsUndefined = false) :
    (s.refill s.dataSide r (s.dataRefillWords w)).dataLookup w =
      { hit := true, word := s.busWord r w, parityError := false } := by
  unfold State.dataRefillWords
  split
  · have h := s.dataLookup_refill_block r w (w.extractLsb' 0 2) hu
    rwa [blockWord_self] at h
  · exact State.dataLookup_fillWord { s with readBuffer := [] } w (s.busWord r w) false

/-! ## The state a data-cache miss reads from -/

/-- A miss has recorded the parity it found and every earlier store is written (20_memory.md R121,
R132). -/
def State.missState (s : State) (w : WordAddr) : State := (s.recordParity (s.dataLookup w)).drain

section
variable (s : State) (w : WordAddr)

theorem State.missState_accessKeeps : AccessKeeps s (s.missState w) :=
  accessKeeps_trans (accessKeeps_recordParity s _) (accessKeeps_drain _)

theorem State.missState_settledMemory : (s.missState w).settledMemory = s.settledMemory :=
  s.recordParity_settledMemory _

theorem State.missState_keepsCaches : KeepsCaches s (s.missState w) := ⟨rfl, rfl⟩

theorem State.missState_acInForce : (s.missState w).acInForce = s.acInForce := rfl

theorem State.missState_cache (d : CacheSide) : (s.missState w).cache d = s.cache d := by
  cases d <;> rfl

theorem State.missState_memoryWord (v : WordAddr) :
    (s.missState w).busWord .memory v = s.memoryWord v := rfl

theorem State.missState_busWord_device (w0 w1 w2 w3 : Word) (v : WordAddr) :
    (s.missState w).busWord (.device w0 w1 w2 w3) v = s.busWord (.device w0 w1 w2 w3) v := rfl

end

/-- With no flush outstanding every tag of the array that serves data is known (20_memory.md R127). -/
theorem State.tagsUndefined_dataSide {s : State} (h : s.awaitingFlush = false) :
    (s.cache s.dataSide).tagsUndefined = false := by
  simp only [State.awaitingFlush, Bool.or_eq_false_iff] at h
  cases s.dataSide
  exacts [h.1, h.2]

/-! ## What a cacheable load answers (20_memory.md R125) -/

section
variable {s : State} (hisc : s.cp0.status.isc = false) (w : WordAddr)
include hisc

theorem State.loadWord_awaitingFlush (h : s.awaitingFlush = true) :
    s.loadWord w true = .refused .cacheNotFlushed := by
  simp only [State.loadWord, hisc, h, if_true]

theorem State.loadWord_cached (h : s.awaitingFlush = false) :
    s.loadWord w true = s.loadCached w := by
  simp only [State.loadWord, hisc, h, Bool.false_eq_true, if_false]

theorem State.loadWord_hit (h : s.awaitingFlush = false) (hhit : (s.dataLookup w).hit = true) :
    s.loadWord w true = .ok (s.dataLookup w).word s := by
  rw [s.loadWord_cached hisc w h]
  simp only [State.loadCached, hhit, if_true]

theorem State.loadWord_miss (h : s.awaitingFlush = false) (hmiss : (s.dataLookup w).hit = false) :
    s.loadWord w true = (s.recordParity (s.dataLookup w)).readMiss w := by
  rw [s.loadWord_cached hisc w h]
  simp only [State.loadCached, hmiss, Bool.false_eq_true, if_false]

end

/-! ## What a miss answers, by the reply of the bus (71_bus_interface.md R540, R545, R546, R548) -/

section
variable {s : State} (w : WordAddr)

/-- Behind a write that is never acknowledged a miss does not end. -/
theorem State.readMiss_blocked (hbus : s.seq.busBlocked = true) : s.readMiss w = .never s := if_pos hbus

variable (hbus : s.seq.busBlocked = false)
include hbus

theorem State.readMiss_noAnswer (hr : s.env.dataReply = .noAnswer) :
    s.readMiss w = .never s.drain := by
  simp only [State.readMiss, hbus, hr, Bool.false_eq_true, if_false]

theorem State.readMiss_busError (hr : s.env.dataReply = .busError) : s.readMiss w =
    .exc .dbe (s.drain.refillFailed s.dataSide .dataErrorLine (s.dataRefillWords w)) := by
  simp only [State.readMiss, hbus, hr, Bool.false_eq_true, if_false]

theorem State.readMiss_memory (hr : s.env.dataReply = .memory) : s.readMiss w =
    .ok (s.drain.busWord .memory w) (s.drain.refill s.dataSide .memory (s.dataRefillWords w)) := by
  simp only [State.readMiss, hbus, hr, Bool.false_eq_true, if_false]

theorem State.readMiss_device {w0 w1 w2 w3 : Word} (hr : s.env.dataReply = .device w0 w1 w2 w3) :
    s.readMiss w = .ok (s.drain.busWord (.device w0 w1 w2 w3) w)
      (s.drain.refill s.dataSide (.device w0 w1 w2 w3) (s.dataRefillWords w)) := by
  simp only [State.readMiss, hbus, hr, Bool.false_eq_true, if_false]

end

/-! ## What a miss leaves -/

/-- After a refill that the bus answered: the word, or its block, hits with what the bus gave, no other
entry changed, and memory reads as before (20_memory.md R121, R125, R126). -/
theorem State.missState_refill (s : State) (w : WordAddr) (h : s.awaitingFlush = false) (r : BusReply)
    (word : WordAddr → Word) (hword : ∀ v, (s.missState w).busWord r v = word v) (t : State)
    (ht : (s.missState w).refill s.dataSide r (s.dataRefillWords w) = t) :
    t.writeBuffer = [] ∧ KeepsMemory s t ∧ AccessKeeps s t ∧ (t.dataLookup w).hit = true ∧
      (t.dataLookup w).word = word w ∧
      (s.dbRefillInForce = true → ∀ k : BitVec 2, (t.dataLookup (blockWord w k)).hit = true ∧
        (t.dataLookup (blockWord w k)).word = word (blockWord w k)) ∧
      KeepsOtherEntries s t s.dataSide (if s.dbRefillInForce then blockWords w else [w]) ∧
      t.cp0.status = { s.cp0.status with pe := s.cp0.status.pe || (s.dataLookup w).parityError } := by
  have hu : ((s.missState w).cache s.dataSide).tagsUndefined = false := by
    rw [s.missState_cache]; exact State.tagsUndefined_dataSide h
  have keeps : AccessKeeps s t :=
    ht ▸ accessKeeps_trans (s.missState_accessKeeps w) (accessKeeps_refill ..)
  have hmem : t.settledMemory = s.settledMemory := by
    rw [← ht, State.refill_settledMemory, s.missState_settledMemory]
  have hmode : t.mode = s.mode := keeps.2.1
  have hlookup : t.dataLookup w = { hit := true, word := word w, parityError := false } := by
    rw [← ht, ← hword w]
    exact (s.missState w).dataLookup_refill r w hu
  refine ⟨?_, fun a => State.memoryByte_congr hmode hmem a, keeps, by rw [hlookup], by rw [hlookup],
    fun hd k => ?_, ?_, ?_⟩
  · rw [← ht, State.refill_writeBuffer]
    rfl
  · have hws : s.dataRefillWords w = blockWords w := if_pos hd
    have hk : t.dataLookup (blockWord w k) =
        { hit := true, word := word (blockWord w k), parityError := false } := by
      rw [← ht, hws, ← hword]
      exact (s.missState w).dataLookup_refill_block r w k hu
    rw [hk]
    exact ⟨rfl, rfl⟩
  · rw [← ht]
    exact ((s.missState w).refill_keeps s.dataSide r (s.dataRefillWords w) hu).congr
      (s.missState_keepsCaches w) (s.missState_acInForce w)
  · rw [← ht, State.refill_cp0]
    rfl

/-- After a refill that ended in BusError (71_bus_interface.md R546, D43). -/
theorem State.missState_refillFailed (s : State) (w : WordAddr) (h : s.awaitingFlush = false) (t : State)
    (ht : (s.missState w).refillFailed s.dataSide .dataErrorLine (s.dataRefillWords w) = t) :
    t.writeBuffer = [] ∧ KeepsMemory s t ∧ AccessKeeps s t ∧
      RefillAborted s t s.dataSide (if s.dbRefillInForce then blockWords w else [w]) ∧
      t.cp0.status = { s.cp0.status with pe := s.cp0.status.pe || (s.dataLookup w).parityError } := by
  have hu : ((s.missState w).cache s.dataSide).tagsUndefined = false := by
    rw [s.missState_cache]; exact State.tagsUndefined_dataSide h
  obtain ⟨hkeeps, hmem⟩ := (s.missState w).refillFailed_keeps s.dataSide .dataErrorLine
    (s.dataRefillWords w)
  rw [ht] at hkeeps hmem
  have keeps : AccessKeeps s t := accessKeeps_trans (s.missState_accessKeeps w) hkeeps
  refine ⟨?_, fun a => State.memoryByte_congr keeps.2.1 (hmem.trans (s.missState_settledMemory w)) a,
    keeps, ?_, ?_⟩
  · rw [← ht, State.refillFailed_writeBuffer]
    rfl
  · rw [← ht]
    exact ((s.missState w).refillFailed_aborted s.dataSide _ (s.dataRefillWords w) hu).congr
      (s.missState_keepsCaches w) (s.missState_acInForce w)
  · rw [← ht, State.refillFailed_cp0]
    rfl

/-! ## The obligation -/

/-- Settles O47: a hit, and a miss for each answer of the bus. -/
theorem cachedLoads : Obligations.CachedLoads := by
  unfold Obligations.CachedLoads
  intro s w hisc
  refine ⟨State.loadWord_awaitingFlush hisc w, fun h => ⟨Cache.lookup_parity _ _ _ _ _ _,
    State.loadWord_hit hisc w h, fun hmiss hbus hr => ?_, fun w0 w1 w2 w3 hmiss hbus hr => ?_,
    fun hmiss hbus hr => ?_, fun hmiss hstop => ?_⟩⟩ <;> rw [State.loadWord_miss hisc w h hmiss]
  · rw [State.readMiss_memory (s := s.recordParity (s.dataLookup w)) w hbus hr]
    exact ⟨_, rfl, s.missState_refill w h .memory _ (s.missState_memoryWord w) _ rfl⟩
  · rw [State.readMiss_device (s := s.recordParity (s.dataLookup w)) w hbus hr]
    exact ⟨_, rfl, s.missState_refill w h (.device w0 w1 w2 w3) _
      (s.missState_busWord_device w w0 w1 w2 w3) _ rfl⟩
  · rw [State.readMiss_busError (s := s.recordParity (s.dataLookup w)) w hbus hr]
    exact ⟨_, rfl, s.missState_refillFailed w h _ rfl⟩
  · cases hbus : s.seq.busBlocked
    · have hr : s.env.dataReply = .noAnswer := hstop.resolve_left (by simp [hbus])
      rw [State.readMiss_noAnswer (s := s.recordParity (s.dataLookup w)) w hbus hr]
      exact ⟨_, rfl, fun a => State.memoryByte_congr rfl (s.missState_settledMemory w) a,
        s.missState_accessKeeps w, s.missState_keepsCaches w, rfl⟩
    · rw [State.readMiss_blocked (s := s.recordParity (s.dataLookup w)) w hbus]
      exact ⟨_, rfl, fun a => State.memoryByte_congr rfl (s.recordParity_settledMemory _) a,
        accessKeeps_recordParity s _, ⟨rfl, rfl⟩, rfl⟩

end Sys2Proof.Machine

/-! PROOFS. A cacheable store: write-through, merging of a partial word, parity (20_memory.md R125, R132).
Statement O48. -/

namespace Sys2Proof.Machine

/-! ## Merged lanes (20_memory.md R125) -/

/-- Byte `k` of a word put together from four bytes. -/
theorem extractLsb'_append_bytes (f : Nat → Byte) {k : Nat} (hk : k < 4) :
    (f 3 ++ f 2 ++ f 1 ++ f 0 : Word).extractLsb' (8 * k) 8 = f k := by
  apply BitVec.eq_of_getLsbD_eq
  intro i hi
  simp only [BitVec.getLsbD_extractLsb', BitVec.getLsbD_append, hi, decide_true, Bool.true_and]
  interval_cases k
  · simp [hi]
  · simp [show ¬ 8 + i < 8 by omega, hi]
  · simp [show ¬ 16 + i < 8 by omega, show ¬ 16 + i - 8 < 8 by omega,
      show 16 + i - 8 - 8 = i by omega, hi]
  · simp [show ¬ 24 + i < 8 by omega, show ¬ 24 + i - 8 < 8 by omega,
      show ¬ 24 + i - 8 - 8 < 8 by omega, show 24 + i - 8 - 8 - 8 = i by omega]

/-- Each lane of a merged word is the new one where it is enabled and the old one elsewhere. -/
theorem mergeLanes_byte (l : Lanes) (old new : Word) {k : Nat} (hk : k < 4) :
    (mergeLanes l old new).extractLsb' (8 * k) 8 =
      if l.getLsbD k then new.extractLsb' (8 * k) 8 else old.extractLsb' (8 * k) 8 :=
  extractLsb'_append_bytes
    (fun k => if l.getLsbD k then new.extractLsb' (8 * k) 8 else old.extractLsb' (8 * k) 8) hk

/-! ## The write buffer takes the store (20_memory.md R120; 71_bus_interface.md R551) -/

/-- A store is posted but behind a dead write with four more stores waiting. -/
theorem State.postStore_of_room {s : State} (h : s.seq.busBlocked = false ∨ s.waitingStores.length < 4)
    (e : PendingStore) : s.postStore e = .ok () (s.post e) := by
  have hb : (s.seq.busBlocked && s.bufferFull) = false := by
    rcases h with h | h
    · simp [h]
    · have hf : s.bufferFull = false := decide_eq_false (by unfold writeBufferDepth; omega)
      simp [hf]
  unfold State.postStore
  rw [hb]
  rfl

/-- Writing the cache leaves the write buffer alone. -/
theorem State.storeCache_writeBuffer (s : State) (w : WordAddr) (l : Lanes) (v : Word) :
    (s.storeCache w l v).writeBuffer = s.writeBuffer := by
  unfold State.storeCache
  simp only
  split
  · simp
  · split <;> simp

/-! ## What a cacheable store does, by its lanes and the lookup (20_memory.md R125) -/

section
variable {s : State} (hisc : s.cp0.status.isc = false) (w : WordAddr) (l : Lanes) (v : Word)
include hisc

theorem State.storeWord_awaitingFlush (h : s.awaitingFlush = true) :
    s.storeWord w true l v = .refused .cacheNotFlushed := by
  simp only [State.storeWord, hisc, h, if_true]

theorem State.storeWord_cached (h : s.awaitingFlush = false)
    (hroom : s.seq.busBlocked = false ∨ s.waitingStores.length < 4) :
    s.storeWord w true l v = .ok () ((s.storeCache w l v).post (s.postedStore w true l v)) := by
  simp only [State.storeWord, hisc, h, Bool.false_eq_true, if_false]
  have hseq : (s.storeCache w l v).seq = s.seq := by
    obtain ⟨-, -, -, -, -, -, -, -, -, -, -, hseq, -⟩ := s.storeCache_keeps w l v
    exact hseq
  refine State.postStore_of_room ?_ _
  rw [hseq, State.waitingStores_congr (s.storeCache_writeBuffer w l v) (by rw [hseq])]
  exact hroom

end

theorem State.storeCache_word (s : State) (w : WordAddr) (v : Word) :
    s.storeCache w allLanes v = s.fillWord s.dataSide w v s.cp0.status.pz := by
  unfold State.storeCache
  exact if_pos rfl

theorem State.postedStore_word (s : State) (w : WordAddr) (v : Word) :
    s.postedStore w true allLanes v = { addr := w, lanes := allLanes, data := v } := by
  simp [State.postedStore]

section
variable {s : State} {w : WordAddr} {l : Lanes} (hl : l ≠ allLanes)
include hl

theorem State.storeCache_partial_hit (h : (s.dataLookup w).hit = true) (v : Word) :
    s.storeCache w l v =
      s.fillWord s.dataSide w (mergeLanes l (s.dataLookup w).word v) s.cp0.status.pz := by
  simp only [State.storeCache, if_neg hl, h, if_true]

theorem State.postedStore_partial_hit (h : (s.dataLookup w).hit = true) (v : Word) :
    s.postedStore w true l v =
      { addr := w, lanes := allLanes, data := mergeLanes l (s.dataLookup w).word v } := by
  simp [State.postedStore, hl, h]

theorem State.storeCache_partial_miss (h : (s.dataLookup w).hit = false) (v : Word) :
    s.storeCache w l v = s.recordParity (s.dataLookup w) := by
  simp only [State.storeCache, if_neg hl, h, Bool.false_eq_true, if_false]

end

theorem State.postedStore_miss {s : State} {w : WordAddr} (h : (s.dataLookup w).hit = false) (l : Lanes)
    (v : Word) : s.postedStore w true l v = { addr := w, lanes := l, data := v } := by
  simp [State.postedStore, h]

/-! ## What a store leaves -/

/-- A word written to the cache and posted: it stands in memory and in the cache (20_memory.md R125,
R132). -/
theorem State.fillWord_post_spec (s : State) (w : WordAddr) (x : Word) (p : Bool) (t : State)
    (ht : (s.fillWord s.dataSide w x p).post { addr := w, lanes := allLanes, data := x } = t) :
    StoresLanes s t w allLanes x ∧ AccessKeeps s t ∧
      t.dataLookup w =
        { hit := !(p && Config.freeBit .dataParity s.seq.draws), word := x,
          parityError := p && Config.freeBit .dataParity s.seq.draws } ∧
      (s.cp0.status.swc = false → t.icache = s.icache) := by
  subst ht
  have keeps := accessKeeps_trans (accessKeeps_fillWord s s.dataSide w x p)
    (accessKeeps_post _ { addr := w, lanes := allLanes, data := x })
  refine ⟨storesLanes_of_settled keeps.2.1 (by simp), keeps, ?_, fun h => ?_⟩
  · rw [State.dataLookup_post]
    exact s.dataLookup_fillWord w x p
  · rw [State.post_icache]
    exact s.icache_fillWord w x p h

/-- The entries an operation keeps depend on the caches it leaves alone. -/
theorem KeepsOtherEntries.of_caches {s t u : State} {d : CacheSide} {ws : List WordAddr}
    (h : KeepsOtherEntries s t d ws) (hc : KeepsCaches t u) : KeepsOtherEntries s u d ws := by
  obtain ⟨hi, hd⟩ := hc
  have he : ∀ e, u.cache e = t.cache e := fun e => by cases e <;> assumption
  unfold KeepsOtherEntries at *
  simpa only [he] using h

/-- A store changes no cache entry but the one its word selects (20_memory.md R125). -/
theorem State.storeCache_keepsOtherEntries {s : State} (h : s.awaitingFlush = false) (w : WordAddr)
    (l : Lanes) (v : Word) : KeepsOtherEntries s (s.storeCache w l v) s.dataSide [w] := by
  have hu := State.tagsUndefined_dataSide h
  unfold State.storeCache
  simp only
  split
  · exact s.fillWord_keeps _ w _ _ hu
  · split
    · exact s.fillWord_keeps _ w _ _ hu
    · exact (keepsOtherEntries_refl s _ _).of_caches ⟨rfl, rfl⟩

/-! ## The obligation -/

/-- Settles O48: a word store, a partial store that hits and one that misses, each posted from the cache
it leaves. -/
theorem cachedStores : Obligations.CachedStores := by
  unfold Obligations.CachedStores
  intro s w v l hisc
  refine ⟨State.storeWord_awaitingFlush hisc w l v, fun h hroom => ?_⟩
  have posted (l : Lanes) := State.storeWord_cached hisc w l v h hroom
  have word := s.fillWord_post_spec w v s.cp0.status.pz _ rfl
  have merged := s.fillWord_post_spec w (mergeLanes l (s.dataLookup w).word v) s.cp0.status.pz _ rfl
  refine ⟨fun hpz => ?_, fun hpz => ?_, fun hl hpz hhit => ?_, fun hl hpz hhit => ?_,
    fun hl hmiss => ?_, fun t ht => ?_, fun k hk => mergeLanes_byte l _ v hk⟩
  · obtain ⟨hst, hkeeps, hlook, hic⟩ := word
    rw [posted, State.storeCache_word, State.postedStore_word]
    refine ⟨_, rfl, hst, hkeeps, by rw [hlook], by rw [hlook, Bool.not_not], hic⟩
  · obtain ⟨hst, hkeeps, hlook, hic⟩ := word
    rw [posted, State.storeCache_word, State.postedStore_word]
    exact ⟨_, rfl, hst, hkeeps, by rw [hlook, hpz]; rfl, by rw [hlook], hic⟩
  · obtain ⟨hst, hkeeps, hlook, hic⟩ := merged
    rw [posted, State.storeCache_partial_hit hl hhit, State.postedStore_partial_hit hl hhit]
    exact ⟨_, rfl, hst, hkeeps, by rw [hlook, hpz]; rfl, by rw [hlook], hic⟩
  · obtain ⟨hst, hkeeps, hlook, hic⟩ := merged
    rw [posted, State.storeCache_partial_hit hl hhit, State.postedStore_partial_hit hl hhit]
    exact ⟨_, rfl, hst, hkeeps, by rw [hlook], by rw [hlook, Bool.not_not], hic⟩
  · rw [posted, State.storeCache_partial_miss hl hmiss, State.postedStore_miss hmiss]
    exact ⟨_, rfl, storesLanes_of_settled (by simp) (by simp),
      accessKeeps_trans (accessKeeps_recordParity s _) (accessKeeps_post _ _), ⟨by simp, by simp⟩,
      by rw [State.post_cp0]; rfl⟩
  · rw [posted] at ht
    cases ht
    exact (State.storeCache_keepsOtherEntries h w l v).of_caches ⟨by simp, by simp⟩

end Sys2Proof.Machine

/-! PROOFS. Isolated caches: stores reach the cache alone, loads report hit or miss (20_memory.md R127 to
R132). Statement O49. -/

namespace Sys2Proof.Machine

/-! ## What isolated accesses come to (20_memory.md R128) -/

section
variable {s : State} (hisc : s.cp0.status.isc = true) (w : WordAddr)
include hisc

theorem State.storeWord_isolated (l : Lanes) (v : Word) :
    s.storeWord w true l v = .ok () (s.storeIsolated w l v) := by
  simp only [State.storeWord, hisc]

theorem State.loadWord_isolated :
    s.loadWord w true = .ok (s.dataLookup w).word
      (s.withStatus { s.cp0.status with
        cm := !(s.dataLookup w).hit, pe := s.cp0.status.pe || (s.dataLookup w).parityError }) := by
  unfold State.loadWord
  rw [hisc]
  rfl

theorem State.loadWord_uncached_isolated : s.loadWord w false = .refused .isolatedUncached := by
  simp only [State.loadWord, hisc]

theorem State.storeWord_uncached_isolated (l : Lanes) (v : Word) :
    s.storeWord w false l v = .refused .isolatedUncached := by
  simp only [State.storeWord, hisc]

end

theorem State.storeIsolated_word (s : State) (w : WordAddr) (v : Word) :
    s.storeIsolated w allLanes v = s.fillWord s.dataSide w v s.cp0.status.pz := by
  unfold State.storeIsolated
  exact if_pos rfl

theorem State.storeIsolated_partial (s : State) (w : WordAddr) {l : Lanes} (hl : l ≠ allLanes) (v : Word) :
    s.storeIsolated w l v = s.invalidateWord s.dataSide w s.cp0.status.pz := if_neg hl

/-! ## What an isolated store writes -/

/-- An invalidated entry misses, whatever its parity (20_memory.md R128). -/
theorem State.dataLookup_invalidateWord_hit (s : State) (w : WordAddr) (p : Bool) :
    ((s.invalidateWord s.dataSide w p).dataLookup w).hit = false := by
  cases p with
  | false => exact s.dataLookup_invalidateWord w
  | true =>
    unfold State.dataLookup
    rw [State.dataSide_invalidateWord, State.cache_invalidateWord, State.acInForce_invalidateWord]
    unfold Cache.lookup Cache.invalidate
    rw [Cache.tagAt_setTag _ _ _ _ _ (tagIndex_lt ..) (by simp [invalidTag])]
    rfl

/-- An isolated store replaces the array that serves data and nothing else. -/
theorem State.storeIsolated_eq (s : State) (w : WordAddr) (l : Lanes) (v : Word) :
    ∃ c, s.storeIsolated w l v = s.withCache s.dataSide c := by
  unfold State.storeIsolated
  split
  · exact ⟨_, rfl⟩
  · exact ⟨_, rfl⟩

theorem accessKeeps_withCache (s : State) (d : CacheSide) (c : Cache) :
    AccessKeeps s (s.withCache d c) := by
  cases d <;> exact accessKeeps_refl s

/-- Replacing the array that serves data leaves the other one (20_memory.md R129). -/
theorem State.withCache_dataSide_other (s : State) (c : Cache) :
    if s.cp0.status.swc then (s.withCache s.dataSide c).dcache = s.dcache
    else (s.withCache s.dataSide c).icache = s.icache := by
  unfold State.dataSide
  cases s.cp0.status.swc <;> rfl

/-- A store, isolated, reaches neither memory nor the write buffer and changes no register and no CP0. -/
theorem State.storeIsolated_frame (s : State) (w : WordAddr) (l : Lanes) (v : Word) (t : State)
    (ht : s.storeIsolated w l v = t) :
    t.mem = s.mem ∧ t.writeBuffer = s.writeBuffer ∧ AccessKeeps s t ∧ t.cp0 = s.cp0 ∧
      (if s.cp0.status.swc then t.dcache = s.dcache else t.icache = s.icache) := by
  obtain ⟨c, hc⟩ := s.storeIsolated_eq w l v
  rw [hc] at ht
  subst ht
  exact ⟨by simp, by simp, accessKeeps_withCache s _ c, by simp, s.withCache_dataSide_other c⟩

/-- Writing a data word leaves it open which tags are known. -/
theorem Cache.tagsUndefined_setData (c : Cache) (i : Nat) (d : CacheData) :
    (c.setData i d).tagsUndefined = c.tagsUndefined := by
  unfold Cache.setData
  split <;> rfl

/-- A store, isolated, writes one tag: a flush stays outstanding while another is not written
(20_memory.md R127, 70_reset_and_hazards.md R510). -/
theorem State.storeIsolated_tagsUndefined (s : State) (w : WordAddr) (l : Lanes) (v : Word) :
    ((s.storeIsolated w l v).cache s.dataSide).tagsUndefined = true ↔
      (s.cache s.dataSide).tagsUndefined = true ∧
        ∃ j, j < tagCount s.dataSide s.acInForce ∧ j ≠ tagIndex s.dataSide s.acInForce w ∧
          (s.cache s.dataSide).tagAt j = none := by
  unfold State.storeIsolated
  split
  · rw [State.cache_fillWord, Cache.fill, Cache.tagsUndefined_setData]
    exact Cache.tagsUndefined_setTag ..
  · rw [State.cache_invalidateWord]
    exact Cache.tagsUndefined_setTag ..

/-- With no flush outstanding in the array a store, isolated, changes the entry its word selects only. -/
theorem State.storeIsolated_keepsOtherEntries (s : State) (w : WordAddr) (l : Lanes) (v : Word)
    (hu : (s.cache s.dataSide).tagsUndefined = false) :
    KeepsOtherEntries s (s.storeIsolated w l v) s.dataSide [w] := by
  unfold State.storeIsolated
  split
  · exact s.fillWord_keeps _ w v _ hu
  · exact s.invalidateWord_keeps _ w _ hu

/-! ## The obligation -/

/-- Settles O49: an isolated store writes the entry or makes it invalid; an isolated load looks it up. -/
theorem isolatedCache : Obligations.IsolatedCache := by
  unfold Obligations.IsolatedCache
  refine ⟨fun s w v l hisc => ?_, fun s w hisc => State.loadWord_isolated hisc w,
    fun s w v l hisc hpz => ⟨?_, fun hl => ?_, State.loadWord_uncached_isolated hisc w,
      State.storeWord_uncached_isolated hisc w l v⟩⟩
  · obtain ⟨hmem, hbuf, hkeeps, hcp0, hother⟩ := s.storeIsolated_frame w l v _ rfl
    refine ⟨_, State.storeWord_isolated hisc w l v, hmem, hbuf, hkeeps, hcp0, hother,
      s.storeIsolated_keepsOtherEntries w l v, fun hl => ?_, fun hl => ?_,
      s.storeIsolated_tagsUndefined w l v⟩
    · rw [hl, s.storeIsolated_word, s.dataLookup_fillWord]
      exact ⟨rfl, (Bool.not_not _).symm⟩
    · rw [s.storeIsolated_partial w hl]
      exact ⟨s.dataLookup_invalidateWord_hit w _, s.dataAt_invalidateWord _ w _⟩
  · obtain ⟨hmem, hbuf, hkeeps, hcp0, hother⟩ := s.storeIsolated_frame w allLanes v _ rfl
    have hload := State.loadWord_isolated (s := s.storeIsolated w allLanes v) (by rw [hcp0, hisc]) w
    have hlook : (s.storeIsolated w allLanes v).dataLookup w =
        { hit := true, word := v, parityError := false } := by
      rw [s.storeIsolated_word, s.dataLookup_fillWord, hpz]
      rfl
    have hu := (State.loadWord_keeps hload).1
    rw [hlook] at hload hu
    exact ⟨_, _, State.storeWord_isolated hisc w allLanes v, hmem, hbuf, hkeeps, hload, rfl,
      accessKeeps_trans hkeeps hu, hmem, hbuf, hother⟩
  · obtain ⟨hmem, hbuf, hkeeps, hcp0, hother⟩ := s.storeIsolated_frame w l v _ rfl
    have hload := State.loadWord_isolated (s := s.storeIsolated w l v) (by rw [hcp0, hisc]) w
    have hmiss : ((s.storeIsolated w l v).dataLookup w).hit = false := by
      rw [s.storeIsolated_partial w hl]
      exact s.dataLookup_invalidateWord_hit w _
    rw [hmiss] at hload
    exact ⟨_, _, _, State.storeWord_isolated hisc w l v, hmem, hbuf, hkeeps, hload, rfl, hother⟩

end Sys2Proof.Machine

/-! PROOFS. Translation of addresses: the unmapped segments, base versions, the TLB, address errors
(20_memory.md R84, R100 to R112). Statements O19, O20, O21 and O22. -/

namespace Sys2Proof.Machine

/-! ## Segments (20_memory.md R100) -/

/-- The top three bits of an address, as a number. -/
theorem segment_toNat (va : Word) : (va.extractLsb' 29 3).toNat = va.toNat / 2 ^ 29 := by
  have := va.isLt
  rw [BitVec.extractLsb'_toNat, Nat.shiftRight_eq_div_pow]
  omega

theorem segment_eq_four {va : Word} (lo : 0x80000000 ≤ va.toNat) (hi : va.toNat ≤ 0x9fffffff) :
    va.extractLsb' 29 3 = 4 := by
  apply BitVec.eq_of_toNat_eq
  rw [segment_toNat]
  simp
  omega

theorem segment_eq_five {va : Word} (lo : 0xa0000000 ≤ va.toNat) (hi : va.toNat ≤ 0xbfffffff) :
    va.extractLsb' 29 3 = 5 := by
  apply BitVec.eq_of_toNat_eq
  rw [segment_toNat]
  simp
  omega

theorem getLsbD_thirtyOne (va : Word) : va.getLsbD 31 = decide (0x80000000 ≤ va.toNat) := by
  have := va.isLt
  rw [BitVec.getLsbD, Nat.testBit_eq_decide_div_mod_eq]
  exact decide_eq_decide.2 (by omega)

/-- An address of kuseg or kseg2, which the TLB maps on the parts that have one. -/
def IsMapped (va : Word) : Prop := va.extractLsb' 29 3 ≠ 4 ∧ va.extractLsb' 29 3 ≠ 5

theorem isMapped_of_toNat {va : Word} (h : va.toNat ≤ 0x7fffffff ∨ 0xc0000000 ≤ va.toNat) :
    IsMapped va := by
  have hs := segment_toNat va
  constructor <;> intro e <;> rw [e] at hs <;> simp at hs <;> omega

theorem isMapped_of_bits {va : Word} (h : va.getLsbD 31 = false ∨ va.extractLsb' 30 2 = 3) :
    IsMapped va := by
  refine isMapped_of_toNat (h.imp (fun h => ?_) fun h => ?_)
  · rw [getLsbD_thirtyOne] at h
    have := of_decide_eq_false h
    omega
  · have hn := congrArg BitVec.toNat h
    rw [BitVec.extractLsb'_toNat, Nat.shiftRight_eq_div_pow] at hn
    simp at hn
    omega

/-! ## Translation by part and segment (20_memory.md R102 to R107) -/

theorem State.translate_mapped {s : State} {va : Word} (h : IsMapped va) (ht : s.chip.hasTlb = true)
    (k : AccessKind) : s.translate va k = s.translateMapped va k := by
  unfold State.translate
  rw [if_neg h.1, if_neg h.2, if_pos ht]

theorem State.translate_base {s : State} {va : Word} (h : IsMapped va) (ht : s.chip.hasTlb = false)
    (k : AccessKind) :
    s.translate va k = .ok (if va.getLsbD 31 then va else va + 0x40000000, true) s := by
  unfold State.translate
  rw [if_neg h.1, if_neg h.2, if_neg (by simp [ht])]
  split <;> rfl

theorem toNat_add_kusegOffset {va : Word} (h : va.toNat ≤ 0x7fffffff) :
    (va + 0x40000000).toNat = va.toNat + 0x40000000 := by
  rw [BitVec.toNat_add]
  exact Nat.mod_eq_of_lt (by change _ + 0x40000000 < _; omega)

/-- Settles O20: kuseg is moved up by a quarter of the space, kseg2 stays. -/
theorem baseVersionMapping : Obligations.BaseVersionMapping := by
  unfold Obligations.BaseVersionMapping
  intro s va k ht
  refine ⟨fun hlow => ⟨va + 0x40000000, ?_, toNat_add_kusegOffset hlow, ?_⟩, fun hhigh => ?_⟩
  · rw [State.translate_base (isMapped_of_toNat (.inl hlow)) ht, getLsbD_thirtyOne,
      decide_eq_false (by omega)]
    rfl
  · apply BitVec.eq_of_toNat_eq
    rw [BitVec.extractLsb'_toNat, BitVec.extractLsb'_toNat, toNat_add_kusegOffset hlow]
    simp
  · rw [State.translate_base (isMapped_of_toNat (.inr hhigh)) ht, getLsbD_thirtyOne,
      decide_eq_true (by omega)]
    rfl

/-! ## Uncached accesses leave the caches (20_memory.md R103) -/

theorem State.loadWord_uncacheable {s : State} (hisc : s.cp0.status.isc = false) (w : WordAddr) :
    s.loadWord w false = s.readUncached w := by
  simp only [State.loadWord, hisc]

theorem State.storeWord_uncacheable {s : State} (hisc : s.cp0.status.isc = false) (w : WordAddr)
    (l : Lanes) (v : Word) :
    s.storeWord w false l v = s.postStore { addr := w, lanes := l, data := v } := by
  simp only [State.storeWord, hisc]
  rfl

theorem keepsCaches_post (s : State) (e : PendingStore) : KeepsCaches s (s.post e) :=
  ⟨by simp, by simp⟩

theorem State.readUncached_ok {s t : State} {w : WordAddr} {v : Word} (h : s.readUncached w = .ok v t) :
    t = s.drain := by
  unfold State.readUncached at h
  split at h
  · cases h
  split at h <;> cases h <;> rfl

theorem State.fetchUncached_ok {s t : State} {w : WordAddr} {v : Word}
    (h : s.fetchUncached w = .ok v t) : t = s.drain := by
  unfold State.fetchUncached at h
  split at h
  · cases h
  split at h
  · cases h
  split at h <;> cases h <;> rfl

/-- Settles O19: each segment is one branch of the translation, and an uncached access drains or posts. -/
theorem unmappedSegments : Obligations.UnmappedSegments := by
  unfold Obligations.UnmappedSegments
  refine ⟨fun s va k lo hi => s.translate_kseg0 va k (segment_eq_four lo hi),
    fun s va k lo hi => s.translate_kseg1 va k (segment_eq_five lo hi), fun s w hisc =>
    ⟨State.loadWord_uncacheable hisc w, fun l v hbus => ⟨_, s.storeWord_uncached w l v hisc hbus⟩,
      fun l v t h => ?_, fun v t h => ?_, fun v t h => ?_⟩⟩
  · rw [State.storeWord_uncacheable hisc] at h
    rw [State.postStore_ok h]
    exact keepsCaches_post s _
  · rw [State.readUncached_ok h]
    exact ⟨rfl, rfl⟩
  · rw [State.fetchUncached_ok h]
    exact ⟨rfl, rfl⟩

/-! ## The entries that match (20_memory.md R108, R109) -/

theorem TlbEntry.maps_iff (e : TlbEntry) (vpn : BitVec 20) (pid : BitVec 6) :
    e.maps vpn pid = true ↔ e.hi.vpn = vpn ∧ (e.lo.g = true ∨ e.hi.pid = pid) := by
  simp [TlbEntry.maps]

/-- No entry is listed twice among those that match. -/
theorem State.nodup_tlbMatches (s : State) (vpn : BitVec 20) : (s.tlbMatches vpn).Nodup := by
  refine List.Nodup.filter _ (List.Nodup.map_on (fun i hi j hj h => ?_) List.nodup_range)
  have h64 := congrArg BitVec.toNat h
  simp only [BitVec.toNat_ofNat] at h64
  rw [List.mem_range] at hi hj
  omega

theorem State.tlbMatches_eq_nil {s : State} {vpn : BitVec 20}
    (h : ∀ i, ¬ (s.tlbEntry i).maps vpn s.cp0.entryHi.pid = true) : s.tlbMatches vpn = [] :=
  List.eq_nil_iff_forall_not_mem.2 fun i hi => h i ((s.mem_tlbMatches vpn i).1 hi)

theorem State.tlbMatches_eq_singleton {s : State} {vpn : BitVec 20} {i : BitVec 6}
    (h : ∀ j, (s.tlbEntry j).maps vpn s.cp0.entryHi.pid = true ↔ j = i) : s.tlbMatches vpn = [i] := by
  refine List.perm_singleton.1 ((List.perm_ext_iff_of_nodup (s.nodup_tlbMatches vpn)
    (List.nodup_singleton i)).2 fun j => ?_)
  rw [s.mem_tlbMatches, h, List.mem_singleton]

/-- Two entries that match are two elements of the list. -/
theorem State.tlbMatches_eq_cons_cons {s : State} {vpn : BitVec 20} {i j : BitVec 6} (hij : i ≠ j)
    (hi : (s.tlbEntry i).maps vpn s.cp0.entryHi.pid = true)
    (hj : (s.tlbEntry j).maps vpn s.cp0.entryHi.pid = true) :
    ∃ a b l, s.tlbMatches vpn = a :: b :: l := by
  have mi := (s.mem_tlbMatches vpn i).2 hi
  have mj := (s.mem_tlbMatches vpn j).2 hj
  rcases e : s.tlbMatches vpn with _ | ⟨a, _ | ⟨b, l⟩⟩
  · rw [e] at mi
    cases mi
  · rw [e, List.mem_singleton] at mi mj
    exact absurd (mi.trans mj.symm) hij
  · exact ⟨a, b, l, rfl⟩

/-! ## What the matches come to (20_memory.md R110 to R112) -/

section
variable {s : State} {va : Word} (k : AccessKind)

theorem State.translateMapped_shutdown (h : s.cp0.status.ts = true) :
    s.translateMapped va k = .refused .tlbShutdown := if_pos h

theorem State.translateMapped_miss (h : s.cp0.status.ts = false)
    (hm : s.tlbMatches (va.extractLsb' 12 20) = []) :
    s.translateMapped va k = .exc (k.tlbMiss va (!va.getLsbD 31)) s := by
  simp only [State.translateMapped, h, hm, Bool.false_eq_true, if_false]

theorem State.translateMapped_one (h : s.cp0.status.ts = false) {i : BitVec 6}
    (hm : s.tlbMatches (va.extractLsb' 12 20) = [i]) :
    s.translateMapped va k = s.useTlbEntry (s.tlbEntry i) va k := by
  simp only [State.translateMapped, h, hm, Bool.false_eq_true, if_false]

theorem State.translateMapped_twice (h : s.cp0.status.ts = false) {i j : BitVec 6} {l : List (BitVec 6)}
    (hm : s.tlbMatches (va.extractLsb' 12 20) = i :: j :: l) :
    s.translateMapped va k = .ok (s.freeWord .shutdownAddress, s.freeBit .shutdownCacheable)
      (s.withStatus { s.cp0.status with ts := true }) := by
  simp only [State.translateMapped, h, hm, Bool.false_eq_true, if_false]

end

theorem AccessKind.tlbMiss_eq (k : AccessKind) (va : Word) (refill : Bool) :
    k.tlbMiss va refill = if k = .store then .tlbs va refill else .tlbl va refill := by
  cases k <;> rfl

section
variable (s : State) {e : TlbEntry} (va : Word) {k : AccessKind}

theorem State.useTlbEntry_invalid (k : AccessKind) (h : e.lo.v = false) :
    s.useTlbEntry e va k = .exc (k.tlbMiss va false) s := by
  simp [State.useTlbEntry, h]

theorem State.useTlbEntry_readOnly (hv : e.lo.v = true) (hk : k = .store) (hd : e.lo.d = false) :
    s.useTlbEntry e va k = .exc (.mod va) s := by
  simp [State.useTlbEntry, hv, hk, hd]

theorem State.useTlbEntry_hit (hv : e.lo.v = true) (hk : k ≠ .store ∨ e.lo.d = true) :
    s.useTlbEntry e va k = .ok (e.lo.pfn ++ va.extractLsb' 0 12, !e.lo.n) s := by
  rcases hk with hk | hk <;> simp [State.useTlbEntry, hv, hk]

end

/-- Settles O21: how many entries match decides which branch of the translation is taken. -/
theorem tlbTranslation : Obligations.TlbTranslation := by
  unfold Obligations.TlbTranslation
  intro s va k htlb hva
  simp only [State.translate_mapped (isMapped_of_bits hva) htlb, ← TlbEntry.maps_iff,
    ← AccessKind.tlbMiss_eq]
  refine ⟨State.translateMapped_shutdown k, fun hts => ⟨fun hnone => ?_, fun i hone => ?_,
    fun i j hij hi hj => ?_⟩⟩
  · exact State.translateMapped_miss k hts (State.tlbMatches_eq_nil hnone)
  · rw [State.translateMapped_one k hts (State.tlbMatches_eq_singleton hone)]
    exact ⟨s.useTlbEntry_invalid va k, s.useTlbEntry_readOnly va, s.useTlbEntry_hit va⟩
  · obtain ⟨a, b, l, hm⟩ := State.tlbMatches_eq_cons_cons hij hi hj
    rw [State.translateMapped_twice k hts hm]
    exact ⟨_, _, rfl, rfl⟩

/-! ## Address errors (20_memory.md R84, R98, R101) -/

theorem State.address_misaligned (s : State) (va : Word) (k : AccessKind) :
    s.address va k false = .exc (k.addressError va) s := rfl

theorem State.address_userKernel {s : State} {va : Word} (hk : s.cp0.status.kuc = true)
    (hva : va.getLsbD 31 = true) (k : AccessKind) (a : Bool) :
    s.address va k a = .exc (k.addressError va) s := by
  unfold State.address
  split
  · rfl
  · rw [hk, hva]
    rfl

theorem State.address_accepted {s : State} {va : Word}
    (h : s.cp0.status.kuc = false ∨ va.getLsbD 31 = false) (k : AccessKind) :
    s.address va k true = s.translate va k := by
  have hk : ¬ (s.cp0.status.kuc && va.getLsbD 31) = true := by rcases h with h | h <;> rw [h] <;> simp
  exact if_neg hk

/-- Settles O22: the two tests that come before translation, and the fetch that makes them. -/
theorem addressErrors : Obligations.AddressErrors := by
  unfold Obligations.AddressErrors
  have user {s : State} {va : Word} (hk : s.cp0.status.kuc = true) (hva : 0x80000000 ≤ va.toNat) :=
    State.address_userKernel hk (by rw [getLsbD_thirtyOne]; exact decide_eq_true hva)
  refine ⟨State.address_misaligned, fun s va k a hk hva => user hk hva k a, fun s va k h => ?_,
    fun va => ⟨rfl, rfl, rfl, rfl, Width.aligned_half_iff va, Width.aligned_word_iff va⟩,
    fun s h => ?_⟩
  · refine State.address_accepted (h.imp_right fun h => ?_) k
    rw [getLsbD_thirtyOne]
    exact decide_eq_false (by omega)
  · refine State.fetchWord_of_address_exc (u := s) ?_
    rcases h with h | ⟨hk, hva⟩
    · have ha : (s.pc.extractLsb' 0 2 == 0) = false :=
        Bool.eq_false_iff.2 (mt (Width.aligned_word_iff s.pc).1 h)
      rw [ha]
      exact s.address_misaligned s.pc .fetch
    · exact user hk hva .fetch _

end Sys2Proof.Machine

/-! PROOFS. Byte lanes (20_memory.md R86), memory as words with lanes, the write buffer, and the bus between
instructions (20_memory.md R81, R82, R120 to R123; 71_bus_interface.md R548 to R565). Statements O18 and
O17. -/

namespace Sys2Proof.Machine

/-! ## Lanes of an access (20_memory.md R86) -/

/-- The low two bits of an address, moved by an offset. -/
theorem extractLsb'_add_low (va d : Word) :
    (va + d).extractLsb' 0 2 = va.extractLsb' 0 2 + d.extractLsb' 0 2 := by
  apply BitVec.eq_of_toNat_eq
  simp only [BitVec.extractLsb'_toNat, BitVec.toNat_add, Nat.shiftRight_zero]
  omega

/-- Settles O18: the lanes depend on the low two bits of the address and on the byte order alone. -/
theorem accessLanes : Obligations.AccessLanes := by
  unfold Obligations.AccessLanes
  refine ⟨fun _ _ => rfl, fun va => ⟨fun h => ?_, fun h => ?_, fun h => ?_, fun h => ?_⟩,
    fun w j hj => ⟨?_, rfl⟩⟩
  · have h2 : (va + 2).extractLsb' 0 2 = 2 := by rw [extractLsb'_add_low, h]; rfl
    simp only [Width.lanes, Width.lowLane, byteLane, h, h2]
    decide
  · simp only [Width.lanes, Width.lowLane, byteLane, h]
    decide
  · simp only [Width.lanes, Width.lowLane, h]
    decide
  · simp only [Width.lanes, Width.lowLane, h]
    decide
  · unfold laneAddress
    rw [if_pos rfl]
    omega

/-! ## Words of memory (20_memory.md R82) -/

/-- Lane `k` of a memory word. -/
theorem Memory.readWord_byte (m : List Host.Cell) (w : WordAddr) {k : Nat} (hk : k < 4) :
    (Memory.readWord m w).extractLsb' (8 * k) 8 = Memory.read m (laneCell w k) :=
  extractLsb'_append_bytes (fun k => Memory.read m (laneCell w k)) hk

/-- A byte of memory after a bus write: the data's in an enabled lane of the word, else the old one. -/
theorem Memory.read_writeLanes_laneCell (m : List Host.Cell) (w : WordAddr) (l : Lanes) (d : Word)
    {k : Nat} (hk : k < 4) : Memory.read (Memory.writeLanes m w l d) (laneCell w k) =
      if l.getLsbD k then d.extractLsb' (8 * k) 8 else Memory.read m (laneCell w k) := by
  by_cases hl : l.getLsbD k = true
  · rw [if_pos hl]
    exact Memory.read_writeLanes_lane m w l d k hk hl
  · rw [if_neg hl]
    exact Memory.read_writeLanes_other m w l d _ fun j hj hlj e =>
      hl ((laneCell_inj w w k j hk hj e).2 ▸ hlj)

theorem Memory.readWord_writeLanes_self (m : List Host.Cell) (w : WordAddr) (l : Lanes) (d : Word) :
    Memory.readWord (Memory.writeLanes m w l d) w = mergeLanes l (Memory.readWord m w) d := by
  have lane (k : Nat) (hk : k < 4) : Memory.read (Memory.writeLanes m w l d) (laneCell w k) =
      if l.getLsbD k then d.extractLsb' (8 * k) 8 else (Memory.readWord m w).extractLsb' (8 * k) 8 := by
    rw [Memory.read_writeLanes_laneCell m w l d hk, Memory.readWord_byte m w hk]
  conv_lhs => unfold Memory.readWord
  rw [lane 0 (by omega), lane 1 (by omega), lane 2 (by omega), lane 3 (by omega)]
  rfl

theorem Memory.readWord_writeLanes_ne (m : List Host.Cell) {v w : WordAddr} (h : v ≠ w) (l : Lanes)
    (d : Word) : Memory.readWord (Memory.writeLanes m w l d) v = Memory.readWord m v := by
  have lane (k : Nat) (hk : k < 4) : Memory.read (Memory.writeLanes m w l d) (laneCell v k) =
      Memory.read m (laneCell v k) :=
    Memory.read_writeLanes_other m w l d _ fun j hj _ e => h (laneCell_inj v w k j hk hj e).1
  unfold Memory.readWord
  rw [lane 0 (by omega), lane 1 (by omega), lane 2 (by omega), lane 3 (by omega)]

/-- The word at a word address is that at the byte address of its first byte (20_memory.md R81). -/
theorem State.memoryWord_eq_wordAt (s : State) (w : WordAddr) : s.memoryWord w = s.wordAt (4 * w.toNat) := by
  have hw := w.isLt
  have hn : (w ++ (0#2) : Word).toNat = 4 * w.toNat := by
    rw [BitVec.toNat_append, ← Nat.shiftLeft_add_eq_or_of_lt (by decide), Nat.shiftLeft_eq]
    simp
    omega
  have ha : wordAddress (w ++ (0#2)) = w := by
    apply BitVec.eq_of_toNat_eq
    rw [wordAddress, BitVec.extractLsb'_toNat, hn, Nat.shiftRight_eq_div_pow]
    omega
  have h := s.memoryWord_wordAddress (pa := w ++ (0#2)) (by omega)
  rwa [ha, hn] at h

/-! ## The write buffer (20_memory.md R120; 71_bus_interface.md R551) -/

theorem State.waitingStores_of_free {s : State} (h : s.seq.busBlocked = false) :
    s.waitingStores = s.writeBuffer := if_neg (by simp [h])

theorem State.waitingStores_of_blocked {s : State} (h : s.seq.busBlocked = true) :
    s.waitingStores = s.writeBuffer.tail := if_pos h

theorem State.bufferFull_eq_false {s : State} (h : s.waitingStores.length < 4) : s.bufferFull = false :=
  decide_eq_false (by unfold writeBufferDepth; omega)

/-- With a free slot a store joins the buffer, and memory stays. -/
theorem State.post_of_room {s : State} (h : s.waitingStores.length < 4) (e : PendingStore) :
    s.post e = { s with writeBuffer := s.writeBuffer ++ [e] } := by
  unfold State.post
  rw [State.bufferFull_eq_false h]
  rfl

/-- Behind a write that is never acknowledged and four more stores a store does not end. -/
theorem State.postStore_blocked {s : State} (hbus : s.seq.busBlocked = true)
    (h : 4 ≤ s.waitingStores.length) (e : PendingStore) : s.postStore e = .never s := by
  have hf : s.bufferFull = true := decide_eq_true h
  unfold State.postStore
  rw [hbus, hf]
  rfl

theorem keepsMemory_of_settled {s t : State} (hm : t.mode = s.mode)
    (h : t.settledMemory = s.settledMemory) : KeepsMemory s t := State.memoryByte_congr hm h

theorem storesLanes_post (s : State) (e : PendingStore) :
    StoresLanes s (s.post e) e.addr e.lanes e.data :=
  storesLanes_of_settled (by simp) (by simp)

/-- The oldest posted write goes first. -/
theorem State.retireWrite_of_cons {s : State} {e : PendingStore} {rest : List PendingStore}
    (h : s.writeBuffer = e :: rest) :
    s.retireWrite = { s with mem := Memory.apply s.mem e, writeBuffer := rest } := by
  simp only [State.retireWrite, h]

/-! ## Events of the bus (71_bus_interface.md R548, R560) -/

theorem State.busEvent_blocked {s : State} (h : s.seq.busBlocked = true) (e : BusEvent) :
    s.busEvent e = s := if_pos h

section
variable {s : State} (h : s.seq.busBlocked = false)
include h

theorem State.busEvent_write (r : WriteReply) : s.busEvent (.write r) = s.sendWrite r :=
  if_neg (by simp [h])

theorem State.busEvent_dma (ds : List DmaWrite) : s.busEvent (.dma ds) = ds.foldl State.dmaStore s :=
  if_neg (by simp [h])

/-- A master's first write, then the rest of them. -/
theorem State.busEvent_dma_cons (d : DmaWrite) (ds : List DmaWrite) :
    s.busEvent (.dma (d :: ds)) = (s.dmaStore d).busEvent (.dma ds) := by
  rw [State.busEvent_dma h, State.busEvent_dma (s := s.dmaStore d) h, List.foldl_cons]

end

theorem State.blockBus_nil {s : State} (h : s.writeBuffer = []) : s.blockBus = s :=
  if_pos (by simp [h])

theorem State.blockBus_ne_nil {s : State} (h : s.writeBuffer ≠ []) :
    s.blockBus = { s with seq := { s.seq with busBlocked := true } } := if_neg (by simp [h])

/-! ## Coherent grants (71_bus_interface.md R562, R563, R565) -/

theorem State.coherentGrant_ordinary {s : State} (h : s.mode.coherentDmaEn = false)
    (ds : List DmaWrite) : s.coherentGrant ds = .ok (s.busEvent (.dma ds)) := by
  unfold State.coherentGrant
  split
  next hb => rw [State.busEvent_blocked hb]
  next => rw [h]; rfl

/-- With nothing in the read buffer there is nothing to give to a cache. -/
theorem State.drainReadBuffer_nil {s : State} (h : s.readBuffer = []) : s.drainReadBuffer = s := by
  unfold State.drainReadBuffer
  rw [h, List.foldl_nil, ← h]

theorem State.drain_nil {s : State} (h : s.writeBuffer = []) : s.drain = s := by
  unfold State.drain State.settledMemory
  rw [h, List.foldl_nil, ← h]

section
variable {s : State} (hbus : s.seq.busBlocked = false) (hopt : s.mode.coherentDmaEn = true)
  (hread : s.readBuffer = [])
include hbus hopt hread

theorem State.coherentGrant_eq (ds : List DmaWrite) :
    s.coherentGrant ds = ds.foldlM State.dmaCoherent s.drain := by
  unfold State.coherentGrant
  rw [hbus, hopt, State.drainReadBuffer_nil hread]
  rfl

theorem State.coherentGrant_error {d : DmaWrite} {r : Refusal} (h : s.drain.dmaCoherent d = .error r)
    (ds : List DmaWrite) : s.coherentGrant (d :: ds) = .error r := by
  rw [State.coherentGrant_eq hbus hopt hread, List.foldlM_cons, h]
  rfl

/-- A write under a coherent grant leaves the buffers empty, so that the rest is a grant of its own. -/
theorem State.coherentGrant_cons {d : DmaWrite} {t : State} (h : s.drain.dmaCoherent d = .ok t)
    (hseq : t.seq = s.seq) (hmode : t.mode = s.mode) (hrb : t.readBuffer = []) (hwb : t.writeBuffer = [])
    (ds : List DmaWrite) : s.coherentGrant (d :: ds) = t.coherentGrant ds := by
  rw [State.coherentGrant_eq hbus hopt hread, List.foldlM_cons, h,
    State.coherentGrant_eq (by rw [hseq, hbus]) (by rw [hmode, hopt]) hrb, State.drain_nil hwb]
  rfl

end

/-- A word under a coherent grant with the caches swapped (D44; log 37). -/
theorem State.dmaCoherent_swapped {s : State} {d : DmaWrite} (hi : d.invalidate = true)
    (hs : s.cp0.status.swc = true) : s.dmaCoherent d = .error .coherentInvalidateSwapped := by
  simp only [State.dmaCoherent, hi, hs, if_true]

theorem State.dmaCoherent_plain {s : State} {d : DmaWrite} (hi : d.invalidate = false) :
    s.dmaCoherent d = .ok (s.dmaStore d) := by
  simp only [State.dmaCoherent, hi, Bool.false_eq_true, if_false]

theorem State.dmaCoherent_invalidate {s : State} {d : DmaWrite} (hi : d.invalidate = true)
    (hs : s.cp0.status.swc = false) :
    s.dmaCoherent d = .ok ((s.dmaStore d).dmaInvalidate d.addr) := by
  simp only [State.dmaCoherent, hi, hs, Bool.false_eq_true, if_false, if_true]

/-- The tag at an index after it is made invalid, whatever its parity mark. -/
theorem Cache.tagAt_invalidate (d : CacheSide) (ac : Bool) (c : Cache) (w : WordAddr) (p : Bool) :
    (c.invalidate d ac w p).tagAt (tagIndex d ac w) =
      some { valid := false, tag := 0, suspect := p } := by
  cases p with
  | false => exact Cache.tagAt_setTag_invalid ..
  | true => exact Cache.tagAt_setTag _ _ _ _ _ (tagIndex_lt ..) (by simp [invalidTag])

/-- Every word that shares the invalidated tag misses (71_bus_interface.md R563: the tag is not
compared). -/
theorem Cache.lookup_invalidate_index {d : CacheSide} {ac : Bool} {v w : WordAddr}
    (h : tagIndex d ac v = tagIndex d ac w) (c : Cache) (p : Bool) (n : Nat) (u : FreeUse) :
    ((c.invalidate d ac w p).lookup d ac v n u).hit = false := by
  unfold Cache.lookup
  rw [h, Cache.tagAt_invalidate]
  rfl

/-- With the caches not swapped every data access that selects an entry of the data cache just invalidated
misses. -/
theorem State.dataLookup_invalidateWord_index {s : State} (hs : s.cp0.status.swc = false)
    {v w : WordAddr} (h : tagIndex .data s.acInForce v = tagIndex .data s.acInForce w) (p : Bool) :
    ((s.invalidateWord .data w p).dataLookup v).hit = false := by
  have hd : (s.invalidateWord .data w p).dataSide = .data := by
    rw [State.dataSide_invalidateWord]
    simp [State.dataSide, hs]
  unfold State.dataLookup
  rw [hd, State.cache_invalidateWord, State.acInForce_invalidateWord]
  exact Cache.lookup_invalidate_index h ..

/-- One word under a coherent grant: memory is written, and with IvdReq the entry of the data cache it
selects is made invalid (71_bus_interface.md R563). -/
theorem State.dmaCoherent_spec (s : State) {d : DmaWrite}
    (h : d.invalidate = false ∨ s.cp0.status.swc = false) :
    ∃ t, s.dmaCoherent d = .ok t ∧ t.seq = s.seq ∧ t.mode = s.mode ∧ t.readBuffer = s.readBuffer ∧
      t.writeBuffer = s.writeBuffer ∧ t.icache = s.icache ∧
      t.mem = Memory.writeLanes s.mem d.addr d.lanes d.data ∧
      (d.invalidate = false → t.dcache = s.dcache) ∧
      (d.invalidate = true → s.dcache.tagsUndefined = false →
        KeepsOtherEntries s t .data [d.addr] ∧ ∀ n i, t.dcache.dataAt n i = s.dcache.dataAt n i) ∧
      (d.invalidate = true → ∀ w, tagIndex .data s.acInForce w = tagIndex .data s.acInForce d.addr →
        (t.dataLookup w).hit = false) := by
  cases hi : d.invalidate with
  | false =>
    exact ⟨_, State.dmaCoherent_plain hi, rfl, rfl, rfl, rfl, rfl, rfl, fun _ => rfl,
      fun h => Bool.noConfusion h, fun h => Bool.noConfusion h⟩
  | true =>
    have hs : s.cp0.status.swc = false := h.resolve_left (by simp [hi])
    refine ⟨_, State.dmaCoherent_invalidate hi hs, rfl, rfl, rfl, rfl, rfl, rfl,
      fun h => Bool.noConfusion h, fun _ hu => ⟨?_, fun n i => ?_⟩, fun _ w hw => ?_⟩
    · exact ((s.dmaStore d).invalidateWord_keeps .data d.addr _ hu).congr ⟨rfl, rfl⟩ rfl
    · exact (s.dmaStore d).dataAt_invalidateWord .data d.addr _ n i
    · exact State.dataLookup_invalidateWord_index (s := s.dmaStore d) hs hw _

/-! ## The obligation -/

/-- Settles O17: each clause reads one operation of memory, the write buffer or the bus. -/
theorem memoryBytesAndPostedStores : Obligations.MemoryBytesAndPostedStores := by
  unfold Obligations.MemoryBytesAndPostedStores
  refine ⟨State.memoryWord_eq_wordAt, fun m w v l d k => ⟨Memory.readWord_byte m w,
      Memory.readWord_writeLanes_self m w l d, fun h => Memory.readWord_writeLanes_ne m h l d⟩,
    fun s e => ⟨storesLanes_post s e, fun h => State.post_waiting h e, fun h => ?_, fun hb =>
      ⟨State.waitingStores_of_free hb, s.postStore_eq e hb⟩, fun hb =>
      ⟨State.waitingStores_of_blocked hb, fun h => State.postStore_blocked hb h e⟩⟩,
    fun s => ⟨keepsMemory_of_settled (by simp) (by simp), keepsMemory_of_settled rfl rfl, rfl⟩,
    fun s e rest h => ?_, fun s e hb => State.busEvent_blocked hb e, fun s hb => ?_,
    fun s d ds hb hopt hread => ⟨fun hi hs => ?_, fun hor => ?_⟩,
    fun s ds h => State.coherentGrant_ordinary h ds⟩
  · refine ⟨?_, ?_, State.postStore_of_room (.inr h) e⟩ <;> rw [State.post_of_room h]
  · rw [State.retireWrite_of_cons h]
    exact ⟨rfl, rfl⟩
  · exact ⟨State.busEvent_write hb _, State.busEvent_write hb _,
      fun h => (State.busEvent_write hb _).trans (State.blockBus_nil h),
      fun h => (State.busEvent_write hb _).trans (State.blockBus_ne_nil h),
      State.busEvent_dma hb [], State.busEvent_dma_cons hb⟩
  · exact State.coherentGrant_error hb hopt hread (State.dmaCoherent_swapped hi hs) ds
  · obtain ⟨t, hstep, hseq, hmode, hread', hwb, hrest⟩ := s.drain.dmaCoherent_spec (d := d) hor
    have hrb : t.readBuffer = [] := hread'.trans hread
    have grant := State.coherentGrant_cons hb hopt hread hstep hseq hmode hrb hwb
    have hone : t.coherentGrant [] = .ok t := by
      rw [State.coherentGrant_eq (by rw [hseq]; exact hb) (by rw [hmode]; exact hopt) hrb,
        State.drain_nil hwb]
      rfl
    exact ⟨t, (grant []).trans hone, grant ds, hrb, hwb, hrest⟩

end Sys2Proof.Machine

/-! PROOFS. The TLB instructions: what each writes, and where they stop (44_cp0_instructions.md R292 to R298;
70_reset_and_hazards.md R507). Statement O53. -/

namespace Sys2Proof.Machine

/-! ## The guard (44_cp0_instructions.md R298, 70_reset_and_hazards.md R507) -/

section
variable {s : State} (h : Cp0Ready s) (k : Result)
include h

theorem State.tlbInstruction_of_ready (ht : s.chip.hasTlb = true) (hw : s.seq.cp0WriteWindow = false) :
    s.tlbInstruction k = k := by
  rw [State.tlbInstruction, State.cp0Instruction_of_ready h, ht, hw]
  rfl

theorem State.tlbInstruction_absent (ht : s.chip.hasTlb = false) :
    s.tlbInstruction k = .refused .tlbAbsent := by
  rw [State.tlbInstruction, State.cp0Instruction_of_ready h, ht]
  rfl

theorem State.tlbInstruction_window (ht : s.chip.hasTlb = true) (hw : s.seq.cp0WriteWindow = true) :
    s.tlbInstruction k = .refused .cp0WriteWindow := by
  rw [State.tlbInstruction, State.cp0Instruction_of_ready h, ht, hw]
  rfl

end

/-- The four TLB instructions stand behind one guard. -/
theorem exec_tlb_guarded (s : State) {i : Instr}
    (hi : i = .tlbr ∨ i = .tlbwi ∨ i = .tlbwr ∨ i = .tlbp) : ∃ k, exec i s = s.tlbInstruction k := by
  rcases hi with rfl | rfl | rfl | rfl <;> exact ⟨_, rfl⟩

/-! ## The TLB after a write (10_state.md R32) -/

theorem State.tlbEntry_writeTlb (s : State) (i j : BitVec 6) (e : TlbEntry) :
    (s.writeTlb i e).tlbEntry j = if j = i then e else s.tlbEntry j := by
  unfold State.tlbEntry State.writeTlb
  by_cases h : j = i
  · subst h
    simp
  · have hn : i.toNat ≠ j.toNat := fun e => h (BitVec.eq_of_toNat_eq e.symm)
    simp only [if_neg h, Vector.getElem_set_ne _ _ hn]

/-- Completing keeps the TLB. -/
theorem State.tlbEntry_advance (s : State) (b : Bool) (t : Option Word) (j : BitVec 6) :
    (s.advance b t).tlbEntry j = s.tlbEntry j := by
  unfold State.tlbEntry
  simp only [State.advance_tlb]

/-- Completing changes Random alone of CP0 (10_state.md R33). -/
theorem State.advance_cp0_random (s : State) (b : Bool) (t : Option Word) :
    (s.advance b t).cp0 = { s.cp0 with random := (s.advance b t).cp0.random } := by simp

/-! ## The instructions, CP0 usable and a TLB present (44_cp0_instructions.md R292 to R295) -/

/-- TLBR, but for which entry it reads. -/
theorem State.tlbRead_shape (s : State) (e : TlbEntry) :
    SystemResult s (fun t => t.tlb = s.tlb ∧ KeepsCaches s t ∧
      t.cp0 = { s.cp0 with random := t.cp0.random, entryHi := e.hi, entryLo := e.lo })
      (.next ((s.withEntryHi e.hi).withEntryLo e.lo).retire) :=
  systemResult_of_retire (u := (s.withEntryHi e.hi).withEntryLo e.lo) rfl rfl
    ⟨State.advance_tlb .., keepsCaches_advance .., State.advance_cp0_random ..⟩

/-- TLBWI and TLBWR, but for which entry they write. -/
theorem State.writeTlb_shape (s : State) (i : BitVec 6) :
    SystemResult s (fun t => KeepsCaches s t ∧ t.cp0 = { s.cp0 with random := t.cp0.random } ∧
      ∀ j, t.tlbEntry j = if j = i then ⟨s.cp0.entryHi, s.cp0.entryLo⟩ else s.tlbEntry j)
      (.next (s.writeTlb i s.newTlbEntry).retire) :=
  systemResult_of_retire (u := s.writeTlb i s.newTlbEntry) rfl rfl
    ⟨keepsCaches_advance .., (s.writeTlb i s.newTlbEntry).advance_cp0_random .., fun j =>
      (State.tlbEntry_advance ..).trans (s.tlbEntry_writeTlb i j _)⟩

/-- TLBP completes with Index as given. -/
theorem State.probe_shape (s : State) (v : IndexReg) :
    SystemResult s (fun t => t.tlb = s.tlb ∧ KeepsCaches s t ∧
      t.cp0 = { s.cp0 with random := t.cp0.random, index := v }) (.next (s.withIndex v).retire) :=
  systemResult_of_retire (u := s.withIndex v) rfl rfl ⟨State.advance_tlb .., keepsCaches_advance ..,
    (s.withIndex v).advance_cp0_random ..⟩

theorem State.probe_none {s : State} (h : s.tlbMatches s.cp0.entryHi.vpn = []) :
    s.probe =
      .next (s.withIndex { p := true, index := (s.freeWord .probeIndex).extractLsb' 0 6 }).retire := by
  simp only [State.probe, h]

theorem State.probe_one {s : State} {i : BitVec 6} (h : s.tlbMatches s.cp0.entryHi.vpn = [i]) :
    s.probe = .next (s.withIndex { p := false, index := i }).retire := by
  simp only [State.probe, h]

theorem State.probe_two {s : State} {i j : BitVec 6} {l : List (BitVec 6)}
    (h : s.tlbMatches s.cp0.entryHi.vpn = i :: j :: l) : s.probe = .refused .tlbMultipleMatch := by
  simp only [State.probe, h]

/-- Settles O53: behind the guard each instruction is one update, then the instruction completes. -/
theorem tlbInstructionResults : Obligations.TlbInstructionResults := by
  unfold Obligations.TlbInstructionResults
  refine ⟨fun s hs ht hw => ?_, fun s i hs hi => ?_⟩
  · have guard (k : Result) : s.tlbInstruction k = k := State.tlbInstruction_of_ready hs k ht hw
    have probe : exec .tlbp s = s.probe := guard _
    simp only [← TlbEntry.maps_iff]
    refine ⟨?_, ?_, ?_, fun i hone => ?_, fun hnone => ?_, fun i j hij hi hj => ?_⟩
    · rw [show exec .tlbr s = _ from guard _]
      exact s.tlbRead_shape _
    · rw [show exec .tlbwi s = _ from guard _]
      exact s.writeTlb_shape _
    · rw [show exec .tlbwr s = _ from guard _]
      exact s.writeTlb_shape _
    · rw [probe, State.probe_one (State.tlbMatches_eq_singleton hone)]
      exact s.probe_shape _
    · rw [probe, State.probe_none (State.tlbMatches_eq_nil hnone)]
      refine (s.probe_shape _).imp fun t ⟨htlb, hc, hcp0⟩ => ⟨htlb, hc, ?_, ?_⟩
      · rw [hcp0]
      · conv_lhs => rw [hcp0]
        rw [hcp0]
    · obtain ⟨a, b, l, hm⟩ := State.tlbMatches_eq_cons_cons hij hi hj
      rw [probe, State.probe_two hm]
  · obtain ⟨k, hk⟩ := exec_tlb_guarded s hi
    rw [hk]
    exact ⟨State.tlbInstruction_absent hs k, State.tlbInstruction_window hs k⟩

end Sys2Proof.Machine

/-! PROOFS. The bytes of an access: which byte of memory each lane is, and where a datum stands in its word
(20_memory.md R81, R86; 40_load_store.md R177, R178). -/

namespace Sys2Proof.Machine

/-! ## Bytes of a word -/

/-- A word is known by its four bytes. -/
theorem word_ext_bytes {a b : Word} (h : ∀ k, k < 4 → a.extractLsb' (8 * k) 8 = b.extractLsb' (8 * k) 8) :
    a = b := by
  apply BitVec.eq_of_getLsbD_eq
  intro i hi
  have hk := congrArg (BitVec.getLsbD · (i % 8)) (h (i / 8) (by omega))
  simpa only [BitVec.getLsbD_extractLsb', Nat.mod_lt i (show 8 > 0 by decide), decide_true,
    Bool.true_and, Nat.div_add_mod] using hk

/-- The bytes of a word put together from four. -/
theorem bytes_append (m3 m2 m1 m0 : Byte) :
    (m3 ++ m2 ++ m1 ++ m0 : Word).extractLsb' 0 8 = m0 ∧
    (m3 ++ m2 ++ m1 ++ m0 : Word).extractLsb' 8 8 = m1 ∧
    (m3 ++ m2 ++ m1 ++ m0 : Word).extractLsb' 16 8 = m2 ∧
    (m3 ++ m2 ++ m1 ++ m0 : Word).extractLsb' 24 8 = m3 := by
  have byte (k : Nat) (hk : k < 4) := extractLsb'_append_bytes
    (fun k => match k with | 0 => m0 | 1 => m1 | 2 => m2 | _ => m3) hk
  exact ⟨byte 0 (by omega), byte 1 (by omega), byte 2 (by omega), byte 3 (by omega)⟩

/-- A byte of a word shifted left by whole bytes. -/
theorem extractLsb'_shiftLeft_bytes (v : Word) {n k : Nat} (h : n ≤ k) (hk : k < 4) :
    (v <<< (8 * n)).extractLsb' (8 * k) 8 = v.extractLsb' (8 * (k - n)) 8 := by
  apply BitVec.eq_of_getLsbD_eq
  intro i hi
  simp only [BitVec.getLsbD_extractLsb', BitVec.getLsbD_shiftLeft, hi, decide_true, Bool.true_and,
    show 8 * k + i < 32 by omega, show ¬ 8 * k + i < 8 * n by omega, decide_false, Bool.not_false]
  congr 1
  omega

/-- A byte of a word shifted right by whole bytes. -/
theorem extractLsb'_shiftRight_bytes (v : Word) (n k : Nat) :
    (v >>> (8 * n)).extractLsb' (8 * k) 8 = v.extractLsb' (8 * (k + n)) 8 := by
  apply BitVec.eq_of_getLsbD_eq
  intro i hi
  simp only [BitVec.getLsbD_extractLsb', BitVec.getLsbD_ushiftRight, hi, decide_true, Bool.true_and]
  congr 1
  omega

/-! ## Merged words (40_load_store.md R177, R178) -/

/-- LWL: the high bytes are the low bytes of memory's word, the others stay. -/
theorem mergeLeft_byte {lane k : Nat} (hl : lane < 4) (hk : k < 4) (old w : Word) :
    (mergeLeft lane old w).extractLsb' (8 * k) 8 =
      if 3 - lane ≤ k then w.extractLsb' (8 * (k - (3 - lane))) 8 else old.extractLsb' (8 * k) 8 := by
  apply BitVec.eq_of_getLsbD_eq
  intro i hi
  have hmask : (0xffffffff#32).getLsbD (8 * (lane + 1) + (8 * k + i)) = decide (k < 3 - lane) := by
    rw [show (0xffffffff#32) = BitVec.allOnes 32 from rfl, BitVec.getLsbD_allOnes]
    exact decide_eq_decide.2 (by omega)
  simp only [mergeLeft, BitVec.getLsbD_extractLsb', BitVec.getLsbD_or, BitVec.getLsbD_and,
    BitVec.getLsbD_shiftLeft, BitVec.getLsbD_ushiftRight, hmask, hi, decide_true, Bool.true_and,
    show 8 * k + i < 32 by omega]
  by_cases h : 3 - lane ≤ k
  · simp only [if_pos h, BitVec.getLsbD_extractLsb', hi, decide_true, Bool.true_and,
      show ¬ 8 * k + i < 8 * (3 - lane) by omega, show ¬ k < 3 - lane by omega, decide_false,
      Bool.not_false, Bool.and_false, Bool.or_false]
    congr 1
    omega
  · simp only [if_neg h, BitVec.getLsbD_extractLsb', hi, decide_true, Bool.true_and,
      show 8 * k + i < 8 * (3 - lane) by omega, show k < 3 - lane by omega, Bool.not_true,
      Bool.false_and, Bool.and_true, Bool.false_or]

/-- LWR: the low bytes are the high bytes of memory's word, the others stay. -/
theorem mergeRight_byte {lane k : Nat} (hk : k < 4) (old w : Word) :
    (mergeRight lane old w).extractLsb' (8 * k) 8 =
      if k + lane < 4 then w.extractLsb' (8 * (k + lane)) 8 else old.extractLsb' (8 * k) 8 := by
  apply BitVec.eq_of_getLsbD_eq
  intro i hi
  have hmask : (0xffffffff#32).getLsbD (8 * lane + (8 * k + i)) = decide (k + lane < 4) := by
    rw [show (0xffffffff#32) = BitVec.allOnes 32 from rfl, BitVec.getLsbD_allOnes]
    exact decide_eq_decide.2 (by omega)
  simp only [mergeRight, BitVec.getLsbD_extractLsb', BitVec.getLsbD_or, BitVec.getLsbD_and,
    BitVec.getLsbD_not, BitVec.getLsbD_ushiftRight, hmask, hi, decide_true, Bool.true_and,
    show 8 * k + i < 32 by omega]
  by_cases h : k + lane < 4
  · rw [if_pos h, decide_eq_true h]
    simp only [BitVec.getLsbD_extractLsb', hi, decide_true, Bool.true_and, Bool.not_true,
      Bool.and_false, Bool.or_false]
    congr 1
    omega
  · rw [if_neg h, decide_eq_false h, BitVec.getLsbD_of_ge w (8 * lane + (8 * k + i)) (by omega)]
    simp only [BitVec.getLsbD_extractLsb', hi, decide_true, Bool.true_and, Bool.not_false,
      Bool.and_true, Bool.false_or]

/-! ## Addresses and lanes (20_memory.md R81, R86) -/

/-- How many bytes an access has (20_memory.md R85). -/
def Width.size : Width → Nat
  | .byte => 1
  | .half => 2
  | .word => 4

/-- An address is a multiple of the width (20_memory.md R84). -/
theorem Width.aligned_iff (n : Width) (va : Word) : n.aligned va = true ↔ va.toNat % n.size = 0 := by
  cases n with
  | byte => exact iff_of_true rfl (Nat.mod_one _)
  | half => exact Width.aligned_half_iff va
  | word => exact Width.aligned_word_iff va

theorem wordAddress_toNat (pa : Word) : (wordAddress pa).toNat = pa.toNat / 4 := by
  have := pa.isLt
  rw [wordAddress, BitVec.extractLsb'_toNat, Nat.shiftRight_eq_div_pow]
  omega

theorem extractLsb'_low_toNat (va : Word) : (va.extractLsb' 0 2).toNat = va.toNat % 4 := by
  rw [BitVec.extractLsb'_toNat, Nat.shiftRight_zero]

/-- The lowest lane of an aligned access, by the address modulo 4 (20_memory.md R86, Table 2.3). -/
theorem Width.lowLane_eq {n : Width} {va : Word} (h : va.toNat % n.size = 0) (b : Bool) :
    n.lowLane b va = if b then 4 - n.size - va.toNat % 4 else va.toNat % 4 := by
  unfold Width.lowLane
  rw [extractLsb'_low_toNat]
  cases n with
  | byte => rfl
  | half => rfl
  | word =>
    have h4 : va.toNat % 4 = 0 := h
    simp [Width.size, h4]

theorem Width.lowLane_add_size {n : Width} {va : Word} (h : va.toNat % n.size = 0) (b : Bool) :
    n.lowLane b va + n.size ≤ 4 := by
  rw [Width.lowLane_eq h]
  cases n <;> simp only [Width.size] at * <;> split <;> omega

/-- The byte address of each lane of an aligned access (20_memory.md R81, R86). -/
theorem Width.laneAddress_lowLane {n : Width} {pa : Word} (h : pa.toNat % n.size = 0) (b : Bool) {j : Nat}
    (hj : j < n.size) : laneAddress b (wordAddress pa) (n.lowLane b pa + j) =
      pa.toNat + if b then n.size - 1 - j else j := by
  rw [Width.lowLane_eq h]
  unfold laneAddress
  rw [wordAddress_toNat]
  cases n <;> simp only [Width.size] at * <;> split <;> omega

/-! ## kseg1 addresses (20_memory.md R103) -/

theorem unmappedAddress_toNat (va : Word) : (unmappedAddress va).toNat = va.toNat % 2 ^ 29 := by
  rw [unmappedAddress, BitVec.toNat_and]
  exact Nat.and_two_pow_sub_one_eq_mod va.toNat 29

theorem unmappedAddress_mod_size {n : Width} {va : Word} (h : va.toNat % n.size = 0) :
    (unmappedAddress va).toNat % n.size = 0 := by
  rw [unmappedAddress_toNat]
  cases n <;> simp only [Width.size] at * <;> omega

theorem unmappedAddress_extractLsb'_low (va : Word) :
    (unmappedAddress va).extractLsb' 0 2 = va.extractLsb' 0 2 := by
  apply BitVec.eq_of_toNat_eq
  rw [extractLsb'_low_toNat, extractLsb'_low_toNat, unmappedAddress_toNat]
  omega

theorem Width.lowLane_unmappedAddress (n : Width) (b : Bool) (va : Word) :
    n.lowLane b (unmappedAddress va) = n.lowLane b va := by
  unfold Width.lowLane
  rw [unmappedAddress_extractLsb'_low]

/-- A byte access selects the lane of the addressed byte. -/
theorem Width.lowLane_byte (b : Bool) (va : Word) : Width.byte.lowLane b va = byteLane b va := rfl

/-- Each lane of a memory word is the byte at its address (20_memory.md R81, R82). -/
theorem State.memoryWord_byte (s : State) (w : WordAddr) {k : Nat} (hk : k < 4) :
    (s.memoryWord w).extractLsb' (8 * k) 8 = s.memoryByte (laneAddress s.mode.bigEndian w k) := by
  rw [s.memoryByte_laneAddress w hk]
  exact Memory.readWord_byte _ w hk

/-- The bytes of an aligned access to memory, from the lowest lane up (20_memory.md R81, R86). -/
theorem State.memoryWord_lowLane (s : State) {n : Width} {pa : Word} (h : pa.toNat % n.size = 0) {j : Nat}
    (hj : j < n.size) :
    (s.memoryWord (wordAddress pa)).extractLsb' (8 * (n.lowLane s.mode.bigEndian pa + j)) 8 =
      s.memoryByte (pa.toNat + if s.mode.bigEndian then n.size - 1 - j else j) := by
  have hsize := Width.lowLane_add_size h s.mode.bigEndian
  rw [s.memoryWord_byte _ (by omega), Width.laneAddress_lowLane h _ hj]

end Sys2Proof.Machine

/-! PROOFS. Loads: what each delivers once its word access answers, and the bytes of memory a load from kseg1
delivers (40_load_store.md R171 to R178; 20_memory.md R103, R121). Statements O40, O41 and O42. -/

namespace Sys2Proof.Machine

/-! ## The datum of a load (20_memory.md R96) -/

/-- The low part of a shifted word is the part of the word from there up. -/
theorem Width.low_shiftRight (n : Width) (w : Word) (m : Nat) :
    n.low (w >>> m) = (w.extractLsb' m (8 * n.size)).setWidth 32 := by
  apply BitVec.eq_of_toNat_eq
  rw [BitVec.toNat_setWidth, BitVec.extractLsb'_toNat]
  cases n with
  | byte =>
    rw [Width.low, BitVec.toNat_and, BitVec.toNat_ushiftRight]
    refine (Nat.and_two_pow_sub_one_eq_mod _ 8).trans ?_
    simp only [Width.size]
    omega
  | half =>
    rw [Width.low, BitVec.toNat_and, BitVec.toNat_ushiftRight]
    refine (Nat.and_two_pow_sub_one_eq_mod _ 16).trans ?_
    simp only [Width.size]
    omega
  | word =>
    rw [Width.low, BitVec.toNat_ushiftRight]
    have := (w >>> m).isLt
    rw [BitVec.toNat_ushiftRight] at this
    rw [show 8 * Width.word.size = 32 from rfl, Nat.mod_mod, Nat.mod_eq_of_lt this]

theorem extractLsb'_setWidth {n : Nat} (hn : n ≤ 32) (x : BitVec n) :
    (x.setWidth 32).extractLsb' 0 n = x := by
  apply BitVec.eq_of_toNat_eq
  have := x.isLt
  have := Nat.pow_le_pow_right (n := 2) (by decide) hn
  rw [BitVec.extractLsb'_toNat, BitVec.toNat_setWidth, Nat.shiftRight_zero,
    Nat.mod_eq_of_lt (show x.toNat < 2 ^ 32 by omega), Nat.mod_eq_of_lt x.isLt]

/-- The halfword of a word at an even address, by bit 1 and the byte order. -/
theorem extractLsb'_half {va : Word} (h : va.toNat % 2 = 0) (b : Bool) (w : Word) :
    w.extractLsb' (8 * Width.half.lowLane b va) 16 =
      if b = va.getLsbD 1 then w.extractLsb' 0 16 else w.extractLsb' 16 16 := by
  rw [Width.lowLane_half h]
  split <;> rfl

/-! ## Accesses of a load (20_memory.md R96) -/

theorem State.memRead_ok {s t u : State} {va pa w : Word} {n : Width} {c : Bool}
    (ha : s.address va .load true = .ok (pa, c) t) (hn : n.aligned va = true)
    (hw : t.loadWord (wordAddress pa) c = .ok w u) :
    s.memRead va n = .ok ((w.extractLsb' (8 * n.lowLane s.bigEndianData va) (8 * n.size)).setWidth 32) u := by
  unfold State.memRead
  rw [hn, ha, Access.bind, hw, Access.bind, Width.low_shiftRight]

theorem State.memReadLanes_ok {s t u : State} {va pa w : Word} {c : Bool}
    (ha : s.address va .load true = .ok (pa, c) t) (hw : t.loadWord (wordAddress pa) c = .ok w u) :
    s.memReadLanes va = .ok w u := by
  unfold State.memReadLanes
  rw [ha]
  exact hw

/-- An access that answers leaves every register and every byte of memory (20_memory.md R96). -/
theorem State.loadAccess_keeps {s t u : State} {va pa w : Word} {c b : Bool}
    (ha : s.address va .load b = .ok (pa, c) t) (hw : t.loadWord (wordAddress pa) c = .ok w u) :
    AccessKeeps s u ∧ KeepsMemory s u := by
  obtain ⟨ht, hmt⟩ := State.address_keeps ha
  obtain ⟨hu, hmu⟩ := State.loadWord_keeps hw
  have keeps := accessKeeps_trans ht hu
  exact ⟨keeps, keepsMemory_of_settled keeps.2.1 (hmu.trans hmt)⟩

/-! ## Each load, once its word access answers -/

section
variable {s t u : State} {base : Reg} {offset : BitVec 16} {pa w : Word} {c : Bool}
  (ha : s.address (s.effectiveAddress base offset) .load true = .ok (pa, c) t)
  (hw : t.loadWord (wordAddress pa) c = .ok w u) (rt : Reg)
include ha hw

/-- A load of an aligned datum delivers it, extended. -/
theorem State.load_answered {n : Width} (hn : n.aligned (s.effectiveAddress base offset) = true)
    (extend : Word → Word) :
    DeferredResult u rt
      (extend ((w.extractLsb' (8 * n.lowLane s.bigEndianData (s.effectiveAddress base offset))
        (8 * n.size)).setWidth 32))
      (s.load base rt offset n extend) := by
  unfold State.load
  rw [State.memRead_ok ha hn hw]
  exact u.deferLoad_shape rt _

/-- LWL and LWR deliver the word merged into what rt holds (40_load_store.md R177, R178). -/
theorem State.loadPartial_answered (merge : Nat → Word → Word → Word) :
    DeferredResult u rt
      (merge (byteLane s.bigEndianData (s.effectiveAddress base offset)) (s.readMerged rt) w)
      (s.loadPartial base rt offset merge) := by
  unfold State.loadPartial
  simp only [State.memReadLanes_ok ha hw]
  exact u.deferLoad_shape rt _

theorem exec_lb_answered : DeferredResult u rt
    ((w.extractLsb' (8 * byteLane s.bigEndianData (s.effectiveAddress base offset)) 8).signExtend 32)
    (exec (.lb base rt offset) s) := by
  rw [← extractLsb'_setWidth (by decide) (w.extractLsb' _ 8)]
  exact State.load_answered ha hw rt (n := .byte) rfl fun x => (x.extractLsb' 0 8).signExtend 32

theorem exec_lbu_answered : DeferredResult u rt
    ((w.extractLsb' (8 * byteLane s.bigEndianData (s.effectiveAddress base offset)) 8).setWidth 32)
    (exec (.lbu base rt offset) s) := State.load_answered ha hw rt (n := .byte) rfl fun x => x

section
variable (h2 : (s.effectiveAddress base offset).toNat % 2 = 0)
include h2

theorem exec_lh_answered : DeferredResult u rt
    ((w.extractLsb' (8 * Width.half.lowLane s.bigEndianData (s.effectiveAddress base offset)) 16).signExtend
      32) (exec (.lh base rt offset) s) := by
  rw [← extractLsb'_setWidth (by decide) (w.extractLsb' _ 16)]
  exact State.load_answered ha hw rt (n := .half) ((Width.aligned_half_iff _).2 h2)
    fun x => (x.extractLsb' 0 16).signExtend 32

theorem exec_lhu_answered : DeferredResult u rt
    ((w.extractLsb' (8 * Width.half.lowLane s.bigEndianData (s.effectiveAddress base offset)) 16).setWidth
      32) (exec (.lhu base rt offset) s) :=
  State.load_answered ha hw rt (n := .half) ((Width.aligned_half_iff _).2 h2) fun x => x

end

section
variable (h4 : (s.effectiveAddress base offset).toNat % 4 = 0)
include h4

theorem State.memRead_word_answered : s.memRead (s.effectiveAddress base offset) .word = .ok w u := by
  rw [State.memRead_ok ha ((Width.aligned_word_iff _).2 h4) hw]
  simp [Width.lowLane, Width.size]

theorem exec_lw_answered : DeferredResult u rt w (exec (.lw base rt offset) s) := by
  show DeferredResult u rt w (s.load base rt offset .word fun x => x)
  rw [State.load, State.memRead_word_answered ha hw h4]
  exact u.deferLoad_shape rt w

theorem exec_lwc1_answered (hs : FpaReady s) :
    DeferredFpResult u rt w (exec (.lwc1 base rt offset) s) := by
  rw [exec_lwc1_of_ok hs (State.memRead_word_answered ha hw h4)]
  exact u.deferFpLoad_shape rt w

end

theorem exec_lwl_answered : DeferredResult u rt
    (mergeLeft (byteLane s.bigEndianData (s.effectiveAddress base offset)) (s.readMerged rt) w)
    (exec (.lwl base rt offset) s) := State.loadPartial_answered ha hw rt mergeLeft

theorem exec_lwr_answered : DeferredResult u rt
    (mergeRight (byteLane s.bigEndianData (s.effectiveAddress base offset)) (s.readMerged rt) w)
    (exec (.lwr base rt offset) s) := State.loadPartial_answered ha hw rt mergeRight

end

/-- Settles O40: each load is its word access, and hands on what its width selects of the word. -/
theorem loadResults : Obligations.LoadResults := by
  unfold Obligations.LoadResults
  refine ⟨fun s => ⟨State.bigEndianData_of_not_reversed, State.bigEndianData_of_reversed⟩,
    fun s t u base rt offset pa w c ha hw => ?_⟩
  obtain ⟨hkeeps, hmem⟩ := State.loadAccess_keeps ha hw
  refine ⟨hkeeps, hmem, exec_lb_answered ha hw rt, exec_lbu_answered ha hw rt, exec_lwl_answered ha hw rt,
    exec_lwr_answered ha hw rt, fun h4 => ⟨exec_lw_answered ha hw rt h4,
      exec_lwc1_answered ha hw rt h4⟩, fun h2 => ?_⟩
  rw [← extractLsb'_half h2]
  exact ⟨exec_lh_answered ha hw rt h2, exec_lhu_answered ha hw rt h2⟩

/-! ## Uncached word accesses (20_memory.md R121, R125; 71_bus_interface.md R545, R546, R548) -/

section
variable {s : State} (w : WordAddr)

theorem State.readUncached_blocked (hbus : s.seq.busBlocked = true) : s.readUncached w = .never s :=
  if_pos hbus

variable (hbus : s.seq.busBlocked = false)
include hbus

theorem State.readUncached_memory (hr : s.env.dataReply = .memory) :
    s.readUncached w = .ok (s.memoryWord w) s.drain := by
  simp only [State.readUncached, hbus, hr, Bool.false_eq_true, if_false]
  rfl

theorem State.readUncached_device {w0 w1 w2 w3 : Word} (hr : s.env.dataReply = .device w0 w1 w2 w3) :
    s.readUncached w = .ok (s.busWord (.device w0 w1 w2 w3) w) s.drain := by
  simp only [State.readUncached, hbus, hr, Bool.false_eq_true, if_false]
  rfl

theorem State.readUncached_busError (hr : s.env.dataReply = .busError) :
    s.readUncached w = .exc .dbe s.drain := by
  simp only [State.readUncached, hbus, hr, Bool.false_eq_true, if_false]

theorem State.readUncached_noAnswer (hr : s.env.dataReply = .noAnswer) :
    s.readUncached w = .never s.drain := by
  simp only [State.readUncached, hbus, hr, Bool.false_eq_true, if_false]

end

/-! ## Loads from kseg1 (20_memory.md R103) -/

theorem UncachedAccess.loadWord {s : State} {va : Word} (h : UncachedAccess s va) (w : WordAddr) :
    s.loadWord w false = .ok (s.memoryWord w) s.drain := by
  obtain ⟨-, -, hisc, hbus, hreply⟩ := h
  exact s.loadWord_uncached w hisc hbus hreply

theorem UncachedAccess.bigEndianData {s : State} {va : Word} (h : UncachedAccess s va) :
    s.bigEndianData = s.mode.bigEndian := State.bigEndianData_of_not_reversed (.inr h.1)

/-- Draining the write buffer first changes nothing a load's result is measured against. -/
theorem DeferredResult.of_drain {s : State} {rt : Reg} {v : Word} {o : Result}
    (h : DeferredResult s.drain rt v o) : DeferredResult s rt v o := h

/-- The byte a kseg1 access selects is the byte of memory at its address. -/
theorem State.memoryWord_byteLane (s : State) (va : Word) :
    (s.memoryWord (wordAddress (unmappedAddress va))).extractLsb' (8 * byteLane s.mode.bigEndian va) 8 =
      s.memoryByte (unmappedAddress va).toNat := by
  have h := s.memoryWord_lowLane (n := .byte) (pa := unmappedAddress va) (Nat.mod_one _) (j := 0)
    Nat.zero_lt_one
  rw [Width.lowLane_unmappedAddress, Width.lowLane_byte] at h
  simpa [Width.size] using h

/-- Two neighbouring bytes of a word. -/
theorem extractLsb'_two_bytes (w : Word) (k : Nat) :
    w.extractLsb' (8 * k) 16 = w.extractLsb' (8 * (k + 1)) 8 ++ w.extractLsb' (8 * k) 8 := by
  apply BitVec.eq_of_getLsbD_eq
  intro i hi
  rw [BitVec.getLsbD_append]
  simp only [BitVec.getLsbD_extractLsb', hi, decide_true, Bool.true_and]
  split
  next h => simp only [h, decide_true, Bool.true_and]
  next h =>
    simp only [show i - 8 < 8 by omega, decide_true, Bool.true_and]
    congr 1
    omega

/-- The halfword a kseg1 access selects is that of memory at its address. -/
theorem State.memoryWord_half (s : State) {va : Word} (h2 : va.toNat % 2 = 0) :
    (s.memoryWord (wordAddress (unmappedAddress va))).extractLsb'
      (8 * Width.half.lowLane s.mode.bigEndian va) 16 = s.halfAt (unmappedAddress va).toNat := by
  have byte {j : Nat} (hj : j < Width.half.size) :=
    s.memoryWord_lowLane (unmappedAddress_mod_size (n := .half) h2) hj
  simp only [Width.lowLane_unmappedAddress] at byte
  have low := byte (j := 0) (by decide)
  have high := byte (j := 1) (by decide)
  rw [extractLsb'_two_bytes, high, ← Nat.add_zero (Width.half.lowLane _ _), low]
  unfold State.halfAt
  cases s.mode.bigEndian <;> rfl

/-- Settles O41: the word access by the reply of the bus, and each load's datum as bytes of memory. -/
theorem uncachedLoads : Obligations.UncachedLoads := by
  unfold Obligations.UncachedLoads
  refine ⟨fun s w hisc => ?_, fun s base rt offset hacc => ?_⟩
  · rw [State.loadWord_uncacheable hisc]
    exact ⟨State.readUncached_blocked w, fun hbus => ⟨State.readUncached_memory w hbus,
      fun _ _ _ _ => State.readUncached_device w hbus, State.readUncached_busError w hbus,
      State.readUncached_noAnswer w hbus⟩, accessKeeps_drain s, keepsMemory_of_settled rfl rfl,
      ⟨rfl, rfl⟩, rfl, rfl⟩
  · have ha := hacc.address .load
    have hw := hacc.loadWord (wordAddress (unmappedAddress (s.effectiveAddress base offset)))
    have lb := exec_lb_answered ha hw rt
    have lbu := exec_lbu_answered ha hw rt
    have lh := exec_lh_answered ha hw rt
    have lhu := exec_lhu_answered ha hw rt
    rw [hacc.bigEndianData, s.memoryWord_byteLane] at lb lbu
    simp only [hacc.bigEndianData] at lh lhu
    refine ⟨lb.of_drain, lbu.of_drain, fun h2 => ?_, fun h4 => ?_⟩
    · rw [← s.memoryWord_half h2]
      exact ⟨(lh h2).of_drain, (lhu h2).of_drain⟩
    · rw [← s.memoryWord_wordAddress (unmappedAddress_mod_four h4)]
      exact (exec_lw_answered ha hw rt h4).of_drain

/-! ## LWL and LWR (40_load_store.md R177, R178) -/

/-- A word put together from four bytes, byte by byte. -/
theorem eq_append_of_bytes {v : Word} {m3 m2 m1 m0 : Byte} (h0 : v.extractLsb' (8 * 0) 8 = m0)
    (h1 : v.extractLsb' (8 * 1) 8 = m1) (h2 : v.extractLsb' (8 * 2) 8 = m2)
    (h3 : v.extractLsb' (8 * 3) 8 = m3) : v = m3 ++ m2 ++ m1 ++ m0 := by
  obtain ⟨b0, b1, b2, b3⟩ := bytes_append m3 m2 m1 m0
  refine word_ext_bytes fun k hk => ?_
  interval_cases k
  exacts [h0.trans b0.symm, h1.trans b1.symm, h2.trans b2.symm, h3.trans b3.symm]

section
variable (m3 m2 m1 m0 t3 t2 t1 t0 : Byte)

/-- The table of LWL (R177). -/
theorem mergeLeft_append :
    mergeLeft 3 (t3 ++ t2 ++ t1 ++ t0) (m3 ++ m2 ++ m1 ++ m0) = m3 ++ m2 ++ m1 ++ m0 ∧
    mergeLeft 2 (t3 ++ t2 ++ t1 ++ t0) (m3 ++ m2 ++ m1 ++ m0) = m2 ++ m1 ++ m0 ++ t0 ∧
    mergeLeft 1 (t3 ++ t2 ++ t1 ++ t0) (m3 ++ m2 ++ m1 ++ m0) = m1 ++ m0 ++ t1 ++ t0 ∧
    mergeLeft 0 (t3 ++ t2 ++ t1 ++ t0) (m3 ++ m2 ++ m1 ++ m0) = m0 ++ t2 ++ t1 ++ t0 := by
  have bm := bytes_append m3 m2 m1 m0
  have bt := bytes_append t3 t2 t1 t0
  refine ⟨?_, ?_, ?_, ?_⟩ <;> apply eq_append_of_bytes <;>
    rw [mergeLeft_byte (by decide) (by decide)] <;> simp [bm, bt]

/-- The table of LWR (R178). -/
theorem mergeRight_append :
    mergeRight 0 (t3 ++ t2 ++ t1 ++ t0) (m3 ++ m2 ++ m1 ++ m0) = m3 ++ m2 ++ m1 ++ m0 ∧
    mergeRight 1 (t3 ++ t2 ++ t1 ++ t0) (m3 ++ m2 ++ m1 ++ m0) = t3 ++ m3 ++ m2 ++ m1 ∧
    mergeRight 2 (t3 ++ t2 ++ t1 ++ t0) (m3 ++ m2 ++ m1 ++ m0) = t3 ++ t2 ++ m3 ++ m2 ∧
    mergeRight 3 (t3 ++ t2 ++ t1 ++ t0) (m3 ++ m2 ++ m1 ++ m0) = t3 ++ t2 ++ t1 ++ m3 := by
  have bm := bytes_append m3 m2 m1 m0
  have bt := bytes_append t3 t2 t1 t0
  refine ⟨?_, ?_, ?_, ?_⟩ <;> apply eq_append_of_bytes <;>
    rw [mergeRight_byte (by decide)] <;> simp [bm, bt]

end

theorem byteLane_eq (va : Word) :
    byteLane true va = 3 - va.toNat % 4 ∧ byteLane false va = va.toNat % 4 := by
  unfold byteLane
  rw [extractLsb'_low_toNat]
  exact ⟨rfl, rfl⟩

/-- Settles O42: the tables byte by byte, and completion with the merged word. -/
theorem partialLoads : Obligations.PartialLoads := by
  unfold Obligations.PartialLoads
  refine ⟨fun m3 m2 m1 m0 t3 t2 t1 t0 => ?_, byteLane_eq, fun s base rt offset hacc => ?_⟩
  · obtain ⟨left3, left2, left1, left0⟩ := mergeLeft_append m3 m2 m1 m0 t3 t2 t1 t0
    exact ⟨left3, left2, left1, left0, mergeRight_append m3 m2 m1 m0 t3 t2 t1 t0⟩
  · have ha := hacc.address .load
    have hw := hacc.loadWord (wordAddress (unmappedAddress (s.effectiveAddress base offset)))
    rw [← hacc.bigEndianData]
    exact ⟨(exec_lwl_answered ha hw rt).of_drain, (exec_lwr_answered ha hw rt).of_drain⟩

end Sys2Proof.Machine

/-! PROOFS. Loads and stores whose access raises an exception or never ends (20_memory.md R98, R121;
71_bus_interface.md R545 to R551), and the interrupt that waits behind such an exception (60_exceptions.md
R432, R440). Statements O46 and O10. -/

namespace Sys2Proof.Machine

/-! ## What a load or store comes to (20_memory.md R96, R97) -/

theorem Access.finish_bind {α β : Type} (m : Access α) (f : α → State → Access β)
    (k : β → State → Result) : (m.bind f).finish k = m.finish fun a s => (f a s).finish k := by
  cases m <;> rfl

/-- An instruction with data access `a`: its address, then its word access, then what it makes of that. -/
inductive AccessShape (s : State) : DataAccess → Result → Prop
  | load (base : Reg) (offset : BitVec 16) (n : Width) (fpa : Bool) (k : Word → State → Result) :
      AccessShape s ⟨.load, base, offset, n, fpa⟩
        ((s.address (s.effectiveAddress base offset) .load
          (n.aligned (s.effectiveAddress base offset))).finish fun p t =>
            (t.loadWord (wordAddress p.1) p.2).finish k)
  | store (base : Reg) (offset : BitVec 16) (n : Width) (fpa : Bool) (l : Lanes) (v : Word)
      (k : Unit → State → Result) :
      AccessShape s ⟨.store, base, offset, n, fpa⟩
        ((s.address (s.effectiveAddress base offset) .store
          (n.aligned (s.effectiveAddress base offset))).finish fun p t =>
            (t.storeWord (wordAddress p.1) p.2 l v).finish k)

namespace AccessShape

variable {s : State} (base : Reg) (offset : BitVec 16) (fpa : Bool)

theorem memRead (n : Width) (k : Word → State → Result) : AccessShape s ⟨.load, base, offset, n, fpa⟩
    ((s.memRead (s.effectiveAddress base offset) n).finish k) := by
  simp only [State.memRead, Access.finish_bind]
  exact .load ..

theorem memReadLanes (k : Word → State → Result) : AccessShape s ⟨.load, base, offset, .byte, fpa⟩
    ((s.memReadLanes (s.effectiveAddress base offset)).finish k) := by
  simp only [State.memReadLanes, Access.finish_bind]
  exact .load ..

theorem memWrite (n : Width) (v : Word) (k : Unit → State → Result) :
    AccessShape s ⟨.store, base, offset, n, fpa⟩
      ((s.memWrite (s.effectiveAddress base offset) n v).finish k) := by
  simp only [State.memWrite, Access.finish_bind]
  exact .store ..

theorem memWriteLanes (l : Lanes) (v : Word) (k : Unit → State → Result) :
    AccessShape s ⟨.store, base, offset, .byte, fpa⟩
      ((s.memWriteLanes (s.effectiveAddress base offset) l v).finish k) := by
  simp only [State.memWriteLanes, Access.finish_bind]
  exact .store ..

end AccessShape

/-- Each of the fourteen loads and stores is its data access (40_load_store.md; 46_fpa_instructions.md R345,
R346). -/
theorem exec_accessShape {s : State} {i : Instr} {a : DataAccess} (hi : dataAccess i = some a)
    (hf : a.ofFpa = true → FpaReady s) : AccessShape s a (exec i s) := by
  cases i with
  | lb | lbu | lh | lhu | lw => cases hi; exact .memRead ..
  | lwl | lwr => cases hi; exact .memReadLanes ..
  | sb | sh | sw => cases hi; exact .memWrite ..
  | swl | swr => cases hi; exact .memWriteLanes ..
  | lwc1 base ft offset =>
    cases hi
    rw [show exec (.lwc1 base ft offset) s = _ from State.fpaInstruction_of_ready (hf rfl) _]
    exact .memRead ..
  | swc1 base ft offset =>
    cases hi
    rw [show exec (.swc1 base ft offset) s = _ from State.fpaInstruction_of_ready (hf rfl) _]
    exact .memWrite ..
  | _ => cases hi

/-- An accepted address changed Status.TS at most (20_memory.md R109, R111). -/
theorem State.translate_ok {s t : State} {va : Word} {k : AccessKind} {p : Word × Bool}
    (h : s.translate va k = .ok p t) : t = s.withStatus { s.cp0.status with ts := t.cp0.status.ts } := by
  have same {q : Word × Bool} (e : Access.ok q s = Access.ok p t) :
      t = s.withStatus { s.cp0.status with ts := t.cp0.status.ts } := by
    injection e with _ ht
    rw [← ht]
    rfl
  unfold State.translate at h
  split at h
  · exact same h
  split at h
  · exact same h
  split at h
  · unfold State.translateMapped at h
    split at h
    · cases h
    split at h
    · cases h
    · unfold State.useTlbEntry at h
      split at h
      · cases h
      split at h
      · cases h
      · exact same h
    · injection h with _ ht
      rw [← ht]
      rfl
  split at h <;> exact same h

theorem State.address_ok {s t : State} {va : Word} {k : AccessKind} {b : Bool} {p : Word × Bool}
    (h : s.address va k b = .ok p t) : t = s.withStatus { s.cp0.status with ts := t.cp0.status.ts } := by
  unfold State.address at h
  split at h
  · cases h
  split at h
  · cases h
  · exact State.translate_ok h

/-! ## The exception of an access -/

section
variable {s : State} {i : Instr} {a : DataAccess} (hi : dataAccess i = some a)
  (hf : a.ofFpa = true → FpaReady s)
include hi hf

/-- An exception of the address is the instruction's. -/
theorem exec_of_address_exc {x : Exc} {t : State}
    (h : s.address (s.effectiveAddress a.base a.offset) a.kind
      (a.width.aligned (s.effectiveAddress a.base a.offset)) = .exc x t) : exec i s = s.raise x := by
  have ht : t = s := State.address_exc h
  have hs := exec_accessShape hi hf
  generalize exec i s = o at hs
  cases hs <;> rw [h, ht] <;> rfl

/-- Of a load whose address is accepted, the word access decides. -/
theorem exec_load_accepted (hk : a.kind = .load) : ∃ k : Word → State → Result,
    ∀ (pa : Word) (c : Bool) (t : State), s.address (s.effectiveAddress a.base a.offset) .load
      (a.width.aligned (s.effectiveAddress a.base a.offset)) = .ok (pa, c) t →
      exec i s = (t.loadWord (wordAddress pa) c).finish k := by
  have hs := exec_accessShape hi hf
  generalize exec i s = o at hs
  cases hs with
  | load base offset n fpa k => exact ⟨k, fun pa c t h => by rw [h]; rfl⟩
  | store => cases hk

/-- Of a store whose address is accepted, the word access decides. -/
theorem exec_store_accepted (hk : a.kind = .store) : ∃ (l : Lanes) (v : Word) (k : Unit → State → Result),
    ∀ (pa : Word) (c : Bool) (t : State), s.address (s.effectiveAddress a.base a.offset) .store
      (a.width.aligned (s.effectiveAddress a.base a.offset)) = .ok (pa, c) t →
      exec i s = (t.storeWord (wordAddress pa) c l v).finish k := by
  have hs := exec_accessShape hi hf
  generalize exec i s = o at hs
  cases hs with
  | load => cases hk
  | store base offset n fpa l v k => exact ⟨l, v, k, fun pa c t h => by rw [h]; rfl⟩

/-- A load whose word access raises an exception takes DBE there. -/
theorem exec_of_loadWord_exc (hk : a.kind = .load) {pa : Word} {c : Bool} {t u : State} {x : Exc}
    (ha : s.address (s.effectiveAddress a.base a.offset) .load
      (a.width.aligned (s.effectiveAddress a.base a.offset)) = .ok (pa, c) t)
    (hw : t.loadWord (wordAddress pa) c = .exc x u) : exec i s = u.raise x := by
  obtain ⟨k, h⟩ := exec_load_accepted hi hf hk
  rw [h pa c t ha, hw]
  rfl

theorem exec_of_loadWord_never (hk : a.kind = .load) {pa : Word} {c : Bool} {t u : State}
    (ha : s.address (s.effectiveAddress a.base a.offset) .load
      (a.width.aligned (s.effectiveAddress a.base a.offset)) = .ok (pa, c) t)
    (hw : t.loadWord (wordAddress pa) c = .never u) : exec i s = .next u.waitForBus := by
  obtain ⟨k, h⟩ := exec_load_accepted hi hf hk
  rw [h pa c t ha, hw]
  rfl

end

/-! ## A store behind a dead bus (71_bus_interface.md R548, R551) -/

theorem State.storeCache_settledMemory (s : State) (w : WordAddr) (l : Lanes) (v : Word) :
    (s.storeCache w l v).settledMemory = s.settledMemory := by
  unfold State.storeCache
  simp only
  split
  · simp
  · split <;> simp

/-- Behind a write that is never acknowledged and four more stores a store does not end, and only its cache
entry may have changed. -/
theorem State.storeWord_blocked {s : State} {c : Bool} (hisc : s.cp0.status.isc = false)
    (hflush : c = true → s.awaitingFlush = false) (hbus : s.seq.busBlocked = true)
    (hfull : 4 ≤ s.waitingStores.length) (w : WordAddr) (l : Lanes) (v : Word) :
    ∃ u, s.storeWord w c l v = .never u ∧ AccessKeeps s u ∧ u.settledMemory = s.settledMemory ∧
      u.writeBuffer = s.writeBuffer ∧ (c = false → u = s) := by
  cases c with
  | false =>
    rw [State.storeWord_uncacheable hisc, State.postStore_blocked hbus hfull]
    exact ⟨s, rfl, accessKeeps_refl s, rfl, rfl, fun _ => rfl⟩
  | true =>
    have hkeeps := s.storeCache_keeps w l v
    have hbuf := s.storeCache_writeBuffer w l v
    have hseq : (s.storeCache w l v).seq = s.seq := by
      obtain ⟨-, -, -, -, -, -, -, -, -, -, -, hseq, -⟩ := hkeeps
      exact hseq
    refine ⟨s.storeCache w l v, ?_, hkeeps, s.storeCache_settledMemory w l v, hbuf,
      fun h => Bool.noConfusion h⟩
    simp only [State.storeWord, hisc, hflush rfl, Bool.false_eq_true, if_false]
    refine State.postStore_blocked (by rw [hseq, hbus]) ?_ _
    rwa [State.waitingStores_congr hbuf (by rw [hseq])]

/-! ## The obligation -/

/-- Settles O46: each way an access can fail is followed through the instruction that makes it. -/
theorem accessExceptions : Obligations.AccessExceptions := by
  unfold Obligations.AccessExceptions
  intro s i a hi hf
  refine ⟨fun x t h => ?_, fun h => ?_, fun pa c t u hk ha => ⟨fun x hw => ?_, fun hw => ?_⟩,
    fun hk hal hkuc hseg hisc hbus hr => ?_, fun pa c t hk ha hisc hflush hbus hfull => ?_⟩
  · rw [exec_of_address_exc hi hf h]
    exact ⟨rfl, s.raise_shape x⟩
  · refine exec_of_address_exc hi hf (t := s) ?_
    rcases h with h | ⟨hkuc, hva⟩
    · rw [h]
      exact s.address_misaligned _ _
    · exact State.address_userKernel hkuc hva _ _
  · obtain ⟨ht, hmt⟩ := State.address_keeps ha
    obtain ⟨rfl, hu, hmu⟩ := State.loadWord_exc hw
    have keeps := accessKeeps_trans ht hu
    rw [exec_of_loadWord_exc hi hf hk ha hw]
    exact ⟨rfl, keeps, keepsMemory_of_settled keeps.2.1 (hmu.trans hmt), rfl, u.raise_shape .dbe⟩
  · obtain ⟨ht, hmt⟩ := State.address_keeps ha
    obtain ⟨hu, hmu⟩ := State.loadWord_never hw
    have keeps := accessKeeps_trans ht hu
    exact ⟨keeps, keepsMemory_of_settled keeps.2.1 (hmu.trans hmt),
      exec_of_loadWord_never hi hf hk ha hw⟩
  · refine exec_of_loadWord_exc hi hf hk (pa := unmappedAddress (s.effectiveAddress a.base a.offset))
      (c := false) (t := s) ?_ ?_
    · rw [hal, State.address_kernel s _ _ hkuc]
      exact s.translate_kseg1 _ _ hseg
    · rw [State.loadWord_uncacheable hisc]
      exact State.readUncached_busError _ hbus hr
  · obtain ⟨l, v, k, h⟩ := exec_store_accepted hi hf hk
    rw [h pa c t ha]
    obtain ⟨ht, hmt⟩ := State.address_keeps ha
    obtain ⟨ts, rfl⟩ : ∃ ts, t = s.withStatus { s.cp0.status with ts := ts } :=
      ⟨_, State.address_ok ha⟩
    obtain ⟨u, hw, hu, hmu, hbuf, hcu⟩ :=
      State.storeWord_blocked (s := s.withStatus { s.cp0.status with ts := ts }) hisc hflush hbus hfull
        (wordAddress pa) l v
    have keeps := accessKeeps_trans ht hu
    rw [hw]
    exact ⟨u, rfl, keeps, keepsMemory_of_settled keeps.2.1 (hmu.trans hmt), hbuf, hcu⟩

/-! ## Whether the data access of the instruction at pc raises an exception (60_exceptions.md R432) -/

/-- The address or, of a load, the word access raises an exception (20_memory.md R98). -/
theorem State.accessFaults_iff (s : State) (a : DataAccess) :
    s.accessFaults a = true ↔
      (∃ x v, s.address (s.effectiveAddress a.base a.offset) a.kind
          (a.width.aligned (s.effectiveAddress a.base a.offset)) = .exc x v) ∨
      (a.kind = .load ∧ ∃ pa c v x v', s.address (s.effectiveAddress a.base a.offset) .load
          (a.width.aligned (s.effectiveAddress a.base a.offset)) = .ok (pa, c) v ∧
        v.loadWord (wordAddress pa) c = .exc x v') := by
  obtain ⟨kind, base, offset, width, fpa⟩ := a
  simp only [State.accessFaults]
  generalize s.effectiveAddress base offset = va
  cases kind with
  | fetch => cases s.address va .fetch (width.aligned va) <;> simp
  | store => cases s.address va .store (width.aligned va) <;> simp
  | load =>
    cases s.address va .load (width.aligned va) with
    | ok p t =>
      obtain ⟨pa, c⟩ := p
      have one : (∃ pa' c' v x v', Access.ok (pa, c) t = .ok (pa', c') v ∧
          v.loadWord (wordAddress pa') c' = .exc x v') ↔
          ∃ x v', t.loadWord (wordAddress pa) c = .exc x v' := by
        constructor
        · rintro ⟨_, _, _, x, v', e, h⟩
          cases e
          exact ⟨x, v', h⟩
        · rintro ⟨x, v', h⟩
          exact ⟨pa, c, t, x, v', rfl, h⟩
      rw [one]
      cases hw : t.loadWord (wordAddress pa) c <;> simp [hw]
    | exc | never | refused => simp

theorem State.fpaReady_iff (s : State) : FpaReady s ↔ (s.usable 1 && s.chip.hasFpa) = true := by
  simp [FpaReady, State.usable]

/-- An instruction's data access faults: it has one, the FPA is ready for it, and it faults. -/
theorem State.instrFaults_iff (s : State) (i : Instr) :
    s.instrFaults i = true ↔
      ∃ a, dataAccess i = some a ∧ (a.ofFpa = true → FpaReady s) ∧ s.accessFaults a = true := by
  unfold State.instrFaults
  cases h : dataAccess i with
  | none => simp
  | some a => cases hf : a.ofFpa <;> simp [hf, State.fpaReady_iff]

theorem State.dataExceptionAtPc_iff (s : State) :
    s.dataExceptionAtPc = true ↔
      ∃ w u i, s.fetchWord = .ok w u ∧ decode w = .ok i ∧ u.serveData.instrFaults i = true := by
  unfold State.dataExceptionAtPc
  cases hw : s.fetchWord with
  | ok w u => cases hd : decode w <;> simp [hd]
  | exc | never | refused => simp

/-! ## The interrupt condition (60_exceptions.md R440) -/

/-- Cause[15:8] are the lines above the software bits (10_state.md R50). -/
theorem causeWord_ip (x : CauseReg) (ip : BitVec 6) :
    (causeWord x ip).extractLsb' 8 8 = ip ++ x.sw := by
  apply BitVec.eq_of_getLsbD_eq
  intro i hi
  simp only [causeWord, BitVec.getLsbD_extractLsb', BitVec.getLsbD_append]
  interval_cases i <;> simp

/-- Status[15:8] are the interrupt masks (10_state.md R37, R47). -/
theorem statusWord_im (x : StatusReg) : (statusWord x).extractLsb' 8 8 = x.im := by
  apply BitVec.eq_of_getLsbD_eq
  intro i hi
  simp only [statusWord, BitVec.getLsbD_extractLsb', BitVec.getLsbD_append]
  interval_cases i <;> simp

theorem State.interruptCondition_of_pending {s : State} (hiec : s.cp0.status.iec = true)
    (h : (causeWord s.cp0.cause s.interruptLines).extractLsb' 8 8 &&&
      (statusWord s.cp0.status).extractLsb' 8 8 ≠ 0) : s.interruptCondition = true := by
  rw [causeWord_ip, statusWord_im] at h
  simpa [State.interruptCondition, State.pendingInterrupts, hiec] using h

theorem State.takesInterrupt_of_dataException {s : State} (h : s.dataExceptionAtPc = true) :
    s.takesInterrupt = false := by
  simp [State.takesInterrupt, h]

/-- The interrupt is what the issue comes to (60_exceptions.md R432). -/
theorem State.issue_eq_interrupt {s t : State} (hreset : s.sample.env.reset = none)
    (htri : s.mode.triState = false) (hwait : s.seq.waiting = false)
    (hbus : s.sample.serveBus = .ok t) (hhalt : t.halting = false)
    (hint : t.takesInterrupt = true) : s.issue = .done (t.raise .int) :=
  calc s.issue = t.issueServed :=
        State.issueSampled_of_served hreset (State.stuck_sample_eq_false htri hwait) hbus
    _ = t.issueRunning := State.issueServed_of_not_halting hhalt
    _ = .done (t.raise .int) := if_pos hint

/-- Settles O10: an interrupt is the issue itself; a faulting data access holds it off, and then the
instruction takes the exception of its access. -/
theorem stepTakesInterrupt : Obligations.StepTakesInterrupt := by
  unfold Obligations.StepTakesInterrupt
  refine ⟨fun s t hreset htri hwait hbus hhalt hiec hpend hdata => ?_, fun t => ?_,
    fun s t u w i a hreset htri hwait hbus hhalt hw hd hi hf => ?_⟩
  · have hint : t.takesInterrupt = true := by
      simp [State.takesInterrupt, State.interruptCondition_of_pending hiec hpend, hdata]
    have hstep : step s = t.raise .int :=
      step_of_issue_done (State.issue_eq_interrupt hreset htri hwait hbus hhalt hint)
    rw [hstep]
    exact ⟨rfl, t.raise_shape .int, _, rfl, rfl, rfl, rfl⟩
  · simp only [State.dataExceptionAtPc_iff, State.instrFaults_iff, State.accessFaults_iff]
    constructor
    · rintro ⟨w, u, i, hw, hd, a, hi, hf, h⟩
      exact ⟨w, u, i, a, hw, hd, hi, hf, h⟩
    · rintro ⟨w, u, i, a, hw, hd, hi, hf, h⟩
      exact ⟨w, u, i, hw, hd, a, hi, hf, h⟩
  · have hstep (hfault : u.serveData.accessFaults a = true) : step s = exec i u.serveData := by
      have hdata : t.dataExceptionAtPc = true := (State.dataExceptionAtPc_iff t).2
        ⟨w, u, i, hw, hd, (State.instrFaults_iff _ i).2 ⟨a, hi, hf, hfault⟩⟩
      exact step_of_issue_run ((State.issue_eq_fetchDecode hreset htri hwait hbus hhalt
        (State.takesInterrupt_of_dataException hdata)).trans (State.fetchDecode_of_ok hw hd))
    refine ⟨fun x v h => ?_, fun pa c v x v' hk ha hx => ?_⟩
    · rw [hstep ((State.accessFaults_iff _ a).2 (.inl ⟨x, v, h⟩))]
      exact ⟨rfl, exec_of_address_exc hi hf h⟩
    · rw [hstep ((State.accessFaults_iff _ a).2 (.inr ⟨hk, pa, c, v, x, v', ha, hx⟩))]
      exact ⟨rfl, exec_of_loadWord_exc hi hf hk ha hx⟩

end Sys2Proof.Machine

/-! PROOFS. Stores to uncacheable addresses: the lanes and the bytes they leave, the frame, and the wait behind
a dead bus (20_memory.md R81, R87, R120; 40_load_store.md R180 to R184; 71_bus_interface.md R548, R551).
Statements O44 and O45. -/

namespace Sys2Proof.Machine

/-! ## What completing keeps after an access -/

section
variable {s u : State} (h : AccessKeeps s u)
include h

/-- An instruction that completes after an access that left the registers alone keeps them. -/
theorem AccessKeeps.retire : KeepsGpr s u.retire ∧ KeepsHiLo s u.retire ∧ KeepsFpa s u.retire ∧
    Continues s u.retire ∧ NoPendingLoad u.retire ∧ NoPendingFpLoad u.retire := by
  obtain ⟨-, -, hgpr, hhi, hlo, -, hnext, -, hfgr, hfcr, hheld, hseq, -⟩ := h
  refine ⟨fun r => ?_, ⟨by simpa using hhi, by simpa using hlo⟩,
    ⟨by simpa using hfcr, by simpa using hheld, fun r => ?_⟩,
    ⟨by simpa using hnext, by simp [hnext], by simp⟩, by simp [NoPendingLoad], by simp [NoPendingFpLoad]⟩
  · rw [State.retire_eq, State.advance_gprValue, State.readMerged_congr (by rw [hseq]) hgpr]
  · rw [State.retire_eq, State.advance_fgrValue, State.deliveredFgr_congr (by rw [hseq]) hfgr]

theorem AccessKeeps.retire_system (hcp0 : u.cp0 = s.cp0) : KeepsSystem s u.retire := by
  obtain ⟨hchip, hmode, -, -, -, -, -, htlb, -⟩ := h
  exact ⟨by simpa using hchip, by simpa using hmode, by simp [hcp0], by simpa using htlb⟩

end

/-- A store that is posted and completes: its lanes stand in memory, and nothing else changed. -/
theorem State.post_shape (s : State) (e : PendingStore) :
    StoreResult s e.addr e.lanes e.data (.next (s.post e).retire) := by
  obtain ⟨hgpr, hhilo, hfpa, hcont, hload, hfp⟩ := (accessKeeps_post s e).retire
  exact ⟨_, rfl, storesLanes_of_settled (by simp) (by simp), hgpr, hhilo, hfpa,
    (accessKeeps_post s e).retire_system (by simp), ⟨by simp, by simp⟩, hcont, hload, hfp⟩

/-! ## The bytes of a store (20_memory.md R81, R86) -/

/-- An access of `n` bytes has the `n` lanes from its lowest one up (20_memory.md R86). -/
theorem Width.lanes_getLsbD (n : Width) (b : Bool) (va : Word) {k : Nat} (hk : k < 4) :
    (n.lanes b va).getLsbD k = true ↔ n.lowLane b va ≤ k ∧ k < n.lowLane b va + n.size := by
  have half : ∀ i, i < 4 → (3#4).getLsbD i = decide (i < 2) := by decide
  cases n with
  | byte =>
    simp only [Width.lanes, Width.size, BitVec.getLsbD_shiftLeft, hk, decide_true, Bool.true_and]
    simp
    omega
  | half =>
    simp only [Width.lanes, Width.size, BitVec.getLsbD_shiftLeft, hk, decide_true, Bool.true_and]
    rw [half _ (by omega)]
    simp
    omega
  | word => simp [Width.lanes, Width.lowLane, Width.size, allLanes_getLsbD hk, hk]

theorem Width.lanes_unmappedAddress (n : Width) (b : Bool) (va : Word) :
    n.lanes b (unmappedAddress va) = n.lanes b va := by
  simp only [Width.lanes, Width.lowLane_unmappedAddress]

/-- The low part of a word has its low bytes. -/
theorem Width.low_byte {n : Width} {j : Nat} (hj : j < n.size) (v : Word) :
    (n.low v).extractLsb' (8 * j) 8 = v.extractLsb' (8 * j) 8 := by
  have hlow := n.low_shiftRight v 0
  rw [BitVec.ushiftRight_zero] at hlow
  have hsize : n.size ≤ 4 := by cases n <;> decide
  rw [hlow]
  apply BitVec.eq_of_getLsbD_eq
  intro i hi
  simp only [BitVec.getLsbD_extractLsb', BitVec.getLsbD_setWidth, hi, Nat.zero_add, decide_true,
    Bool.true_and, show 8 * j + i < 32 by omega, show 8 * j + i < 8 * n.size by omega]

/-- The bytes of an aligned store, from the lowest lane up. -/
theorem mem_bytes_iff (n : Width) (b : Bool) (a : Nat) (v : Word) (p : Nat × Byte) :
    p ∈ n.bytes b a v ↔
      ∃ j, j < n.size ∧ p = (a + if b then n.size - 1 - j else j, v.extractLsb' (8 * j) 8) := by
  cases n <;> simp only [Width.size, Nat.exists_lt_succ_right, Nat.not_lt_zero, false_and, exists_false,
    false_or] <;> cases b <;> simp [Width.bytes] <;> tauto

/-- What an aligned store leaves of memory, byte by byte. -/
theorem StoresLanes.bytes {s t : State} {n : Width} {pa v : Word} (h : pa.toNat % n.size = 0)
    (hst : StoresLanes s t (wordAddress pa) (n.lanes s.mode.bigEndian pa)
      (n.low v <<< (8 * n.lowLane s.mode.bigEndian pa))) :
    (∀ p, p ∈ n.bytes s.mode.bigEndian pa.toNat v → t.memoryByte p.1 = p.2) ∧
    (∀ a, (∀ p, p ∈ n.bytes s.mode.bigEndian pa.toNat v → a ≠ p.1) → t.memoryByte a = s.memoryByte a) := by
  have hsize := Width.lowLane_add_size h s.mode.bigEndian
  simp only [mem_bytes_iff]
  refine ⟨?_, fun a ha => hst.2 a fun k hk hl => ?_⟩
  · rintro p ⟨j, hj, rfl⟩
    have hk : n.lowLane s.mode.bigEndian pa + j < 4 := by omega
    have hbyte := hst.1 _ hk ((n.lanes_getLsbD _ pa hk).2 ⟨by omega, by omega⟩)
    rwa [Width.laneAddress_lowLane h _ hj, extractLsb'_shiftLeft_bytes _ (Nat.le_add_right ..) hk,
      Nat.add_sub_cancel_left, Width.low_byte hj] at hbyte
  · obtain ⟨hlo, hhi⟩ := (n.lanes_getLsbD _ pa hk).1 hl
    obtain ⟨j, rfl⟩ := Nat.exists_eq_add_of_le hlo
    have hj : j < n.size := by omega
    rw [Width.laneAddress_lowLane h _ hj]
    exact ha _ ⟨j, hj, rfl⟩

/-- A store of the lanes of an aligned access is a store of its bytes. -/
theorem StoreResult.bytes {s : State} {n : Width} {pa v : Word} {o : Result} (h : pa.toNat % n.size = 0)
    (hst : StoreResult s (wordAddress pa) (n.lanes s.mode.bigEndian pa)
      (n.low v <<< (8 * n.lowLane s.mode.bigEndian pa)) o) :
    StoreBytesResult s (n.bytes s.mode.bigEndian pa.toNat v) o := by
  obtain ⟨t, ho, hlanes, hrest⟩ := hst
  obtain ⟨hbytes, hother⟩ := hlanes.bytes h
  exact ⟨t, ho, hbytes, hother, hrest⟩

/-! ## Stores to kseg1 (20_memory.md R103) -/

/-- The word access of an uncacheable store the write buffer takes. -/
theorem State.storeWord_room {s : State} (hisc : s.cp0.status.isc = false)
    (hroom : s.seq.busBlocked = false ∨ s.waitingStores.length < 4) (w : WordAddr) (l : Lanes) (v : Word) :
    s.storeWord w false l v = .ok () (s.post { addr := w, lanes := l, data := v }) := by
  rw [State.storeWord_uncacheable hisc]
  exact State.postStore_of_room hroom _

section
variable {s : State} {base : Reg} {offset : BitVec 16} (hkuc : s.cp0.status.kuc = false)
  (hseg : (s.effectiveAddress base offset).extractLsb' 29 3 = 5) (rt : Reg)
include hkuc hseg

/-- An accepted address of kseg1, in Kernel mode. -/
theorem State.address_kseg1 (k : AccessKind) : s.address (s.effectiveAddress base offset) k true =
    .ok (unmappedAddress (s.effectiveAddress base offset), false) s := by
  rw [State.address_kernel s _ k hkuc]
  exact s.translate_kseg1 _ k hseg

variable (hisc : s.cp0.status.isc = false)
include hisc

section
variable (hroom : s.seq.busBlocked = false ∨ s.waitingStores.length < 4)
include hroom

/-- SB, SH and SW to kseg1 store the bytes of rt at the address (40_load_store.md R180 to R182). -/
theorem State.store_kseg1 {n : Width} (hn : (s.effectiveAddress base offset).toNat % n.size = 0) :
    StoreBytesResult s
      (n.bytes s.mode.bigEndian (unmappedAddress (s.effectiveAddress base offset)).toNat (s.readReg rt))
      (s.store base rt offset n) := by
  rw [State.store_of_ok (State.memWrite_ok (State.address_kseg1 hkuc hseg .store)
    ((n.aligned_iff _).2 hn) (State.storeWord_room hisc hroom _ _ _)),
    State.bigEndianData_of_not_reversed (.inr hkuc), ← Width.lanes_unmappedAddress,
    ← Width.lowLane_unmappedAddress]
  exact (s.post_shape _).bytes (unmappedAddress_mod_size hn)

/-- SWL and SWR to kseg1 store their lanes (40_load_store.md R183, R184). -/
theorem State.storePartial_kseg1 (lanes : Nat → Lanes) (shift : Nat → Word → Word) :
    StoreResult s (wordAddress (unmappedAddress (s.effectiveAddress base offset)))
      (lanes (byteLane s.mode.bigEndian (s.effectiveAddress base offset)))
      (shift (byteLane s.mode.bigEndian (s.effectiveAddress base offset)) (s.readReg rt))
      (s.storePartial base rt offset lanes shift) := by
  rw [State.storePartial_of_ok (State.memWriteLanes_ok (State.address_kseg1 hkuc hseg .store)
    (State.storeWord_room hisc hroom _ _ _)), State.bigEndianData_of_not_reversed (.inr hkuc)]
  exact s.post_shape _

end

/-- Behind a dead bus and four more stores SB, SH and SW wait. -/
theorem State.store_kseg1_blocked (hbus : s.seq.busBlocked = true) (hfull : 4 ≤ s.waitingStores.length)
    {n : Width} (hn : (s.effectiveAddress base offset).toNat % n.size = 0) :
    s.store base rt offset n = .next s.waitForBus := by
  unfold State.store State.memWrite
  rw [(n.aligned_iff _).2 hn, State.address_kseg1 hkuc hseg, Access.bind,
    State.storeWord_uncacheable hisc, State.postStore_blocked hbus hfull]
  rfl

end

/-! ## The obligations -/

/-- Settles O44: the word access is a posted store, and each store is its bytes. -/
theorem uncachedStores : Obligations.UncachedStores := by
  unfold Obligations.UncachedStores
  refine ⟨fun s w l v hisc => ⟨fun hroom => ⟨_, State.storeWord_room hisc hroom w l v,
      storesLanes_post s _, accessKeeps_post s _, keepsCaches_post s _, by simp⟩, fun hbus hfull => ?_⟩,
    fun s base rt offset hkuc hseg hisc => ⟨fun hroom => ?_, fun hbus hfull => ?_⟩⟩
  · rw [State.storeWord_uncacheable hisc]
    exact State.postStore_blocked hbus hfull _
  · have store (n : Width) := State.store_kseg1 hkuc hseg rt hisc hroom (n := n)
    exact ⟨store .byte (Nat.mod_one _), store .half, store .word⟩
  · have store (n : Width) := State.store_kseg1_blocked hkuc hseg rt hisc hbus hfull (n := n)
    exact ⟨store .byte (Nat.mod_one _), store .half, store .word⟩

/-- The lanes of SWL and SWR (20_memory.md R87). -/
theorem lanesDown_getLsbD {lane k : Nat} (hl : lane < 4) (hk : k < 4) :
    (lanesDown lane).getLsbD k = decide (k ≤ lane) := by
  rw [lanesDown, BitVec.getLsbD_ushiftRight]
  interval_cases lane <;> interval_cases k <;> rfl

theorem lanesUp_getLsbD {lane k : Nat} (hl : lane < 4) (hk : k < 4) :
    (lanesUp lane).getLsbD k = decide (lane ≤ k) := by
  interval_cases lane <;> interval_cases k <;> rfl

/-- Settles O45: SWL and SWR post their lanes, and the shifts bring the bytes of rt there. -/
theorem partialStores : Obligations.PartialStores := by
  unfold Obligations.PartialStores
  refine ⟨fun s base rt offset hkuc hseg hisc hroom => ?_,
    fun lane k hl hk => ⟨lanesDown_getLsbD hl hk, lanesUp_getLsbD hl hk⟩,
    fun lane k v hl hk => ⟨fun _ => extractLsb'_shiftRight_bytes v _ k,
      fun h => extractLsb'_shiftLeft_bytes v h hk⟩⟩
  have store := State.storePartial_kseg1 hkuc hseg rt hisc hroom
  exact ⟨store lanesDown fun lane v => v >>> (8 * (3 - lane)),
    store lanesUp fun lane v => v <<< (8 * lane)⟩

end Sys2Proof.Machine

/-! PROOFS. The instruction fetch: uncached, hit, miss and block refill, bus error, no answer, refusals
(20_memory.md R99, R121 to R127, R132; 70_reset_and_hazards.md R509, R510, R514; 71_bus_interface.md R540,
R546). Statement O9. -/

namespace Sys2Proof.Machine

/-! ## The words of a block on the bus (71_bus_interface.md R540) -/

theorem blockWord_low (w : WordAddr) (k : BitVec 2) : (blockWord w k).extractLsb' 0 2 = k := by
  unfold blockWord
  exact BitVec.extractLsb'_append_eq_right

/-- A device supplies the words of the block in order. -/
theorem State.busWord_device_blockWord (s : State) (w : WordAddr) (w0 w1 w2 w3 : Word) :
    s.busWord (.device w0 w1 w2 w3) (blockWord w 0) = w0 ∧
    s.busWord (.device w0 w1 w2 w3) (blockWord w 1) = w1 ∧
    s.busWord (.device w0 w1 w2 w3) (blockWord w 2) = w2 ∧
    s.busWord (.device w0 w1 w2 w3) (blockWord w 3) = w3 := by
  simp only [State.busWord, blockWord_low]
  exact ⟨rfl, rfl, rfl, rfl⟩

/-! ## From the address to the access (20_memory.md R99) -/

/-- Once the address is accepted the fetch notes how it is made and makes its access. -/
theorem State.fetchWord_of_address {s u : State} {pa : Word} {c : Bool}
    (h : s.address s.pc .fetch (s.pc.extractLsb' 0 2 == 0) = .ok (pa, c) u) :
    s.fetchWord = (u.noteFetch c).fetchAt (wordAddress pa) c := by
  simp only [State.fetchWord, h, Access.bind]

/-! ## An uncached fetch (20_memory.md R122, R123 d) -/

section
variable {s : State} {w : WordAddr}

theorem State.fetchUncached_pending (h : s.storePending w = true) :
    s.fetchUncached w = .refused .fetchPendingStore := if_pos h

variable (h : s.storePending w = false)
include h

theorem State.fetchUncached_blocked (hbus : s.seq.busBlocked = true) : s.fetchUncached w = .never s := by
  simp only [State.fetchUncached, h, hbus, Bool.false_eq_true, if_false, if_true]

variable (hbus : s.seq.busBlocked = false)
include hbus

theorem State.fetchUncached_memory (hr : s.env.fetchReply = .memory) :
    s.fetchUncached w = .ok (s.memoryWord w) s.drain := by
  simp only [State.fetchUncached, h, hbus, hr, Bool.false_eq_true, if_false]
  rfl

theorem State.fetchUncached_device {w0 w1 w2 w3 : Word} (hr : s.env.fetchReply = .device w0 w1 w2 w3) :
    s.fetchUncached w = .ok (s.busWord (.device w0 w1 w2 w3) w) s.drain := by
  simp only [State.fetchUncached, h, hbus, hr, Bool.false_eq_true, if_false]
  rfl

theorem State.fetchUncached_busError (hr : s.env.fetchReply = .busError) :
    s.fetchUncached w = .exc .ibe s.drain := by
  simp only [State.fetchUncached, h, hbus, hr, Bool.false_eq_true, if_false]

theorem State.fetchUncached_noAnswer (hr : s.env.fetchReply = .noAnswer) :
    s.fetchUncached w = .never s.drain := by
  simp only [State.fetchUncached, h, hbus, hr, Bool.false_eq_true, if_false]

end

/-! ## A cacheable fetch (20_memory.md R125; 70_reset_and_hazards.md R509, R510) -/

section
variable {s : State} (w : WordAddr)

theorem State.fetchAt_cacheCtl (h : s.seq.cacheCtlWindow = true) :
    s.fetchAt w true = .refused .cacheControlCached := if_pos h

variable (h : s.seq.cacheCtlWindow = false)
include h

theorem State.fetchAt_awaitingFlush (hf : s.awaitingFlush = true) :
    s.fetchAt w true = .refused .cacheNotFlushed := by
  simp only [State.fetchAt, h, hf, Bool.false_eq_true, if_false, if_true]

theorem State.fetchAt_hit (hf : s.awaitingFlush = false) (hhit : (s.fetchLookup w).hit = true) :
    s.fetchAt w true = .ok (s.fetchLookup w).word s := by
  simp only [State.fetchAt, State.fetchCached, h, hf, hhit, Bool.false_eq_true, if_false, if_true]

theorem State.fetchAt_miss (hf : s.awaitingFlush = false) (hmiss : (s.fetchLookup w).hit = false) :
    s.fetchAt w true = (s.recordParity (s.fetchLookup w)).fetchMiss w := by
  simp only [State.fetchAt, State.fetchCached, h, hf, hmiss, Bool.false_eq_true, if_false, if_true]

end

/-! ## What a miss answers, by the reply of the bus (20_memory.md R126; 71_bus_interface.md R546) -/

section
variable {s : State} {w : WordAddr}

theorem State.fetchMiss_pending (h : s.storePending w = true) :
    s.fetchMiss w = .refused .fetchPendingStore := if_pos h

variable (h : s.storePending w = false)
include h

/-- A miss does not end behind a dead write, or when nothing answers. -/
theorem State.fetchMiss_never (hstop : s.seq.busBlocked = true ∨ s.env.fetchReply = .noAnswer) :
    s.fetchMiss w = .never s := by
  cases hbus : s.seq.busBlocked with
  | true => simp only [State.fetchMiss, h, hbus, Bool.false_eq_true, if_false, if_true]
  | false =>
    have hr := hstop.resolve_left (by simp [hbus])
    simp only [State.fetchMiss, h, hbus, hr, Bool.false_eq_true, if_false]

variable (hbus : s.seq.busBlocked = false)
include hbus

theorem State.fetchMiss_busError (hr : s.env.fetchReply = .busError) : s.fetchMiss w =
    .exc .ibe (s.refillFailed s.fetchSide .fetchErrorLine (blockWords w)) := by
  simp only [State.fetchMiss, h, hbus, hr, Bool.false_eq_true, if_false]

/-- Memory or a device answers: the block is refilled with what it gives. -/
theorem State.fetchMiss_answered {r : BusReply} (hr : s.env.fetchReply = r) (he : r ≠ .busError)
    (hn : r ≠ .noAnswer) :
    s.fetchMiss w = .ok (s.busWord r w) (s.refill s.fetchSide r (blockWords w)) := by
  simp only [State.fetchMiss, h, hbus, hr, Bool.false_eq_true, if_false]
  cases r with
  | memory | device => rfl
  | busError => exact absurd rfl he
  | noAnswer => exact absurd rfl hn

end

/-! ## The state a miss refills -/

/-- A cacheable fetch that misses has noted itself and recorded the parity it found (20_memory.md R132). -/
def State.fetchMissState (u : State) (w : WordAddr) : State :=
  (u.noteFetch true).recordParity (u.fetchLookup w)

section
variable (u : State) (w : WordAddr)

theorem State.fetchMissState_accessKeeps : AccessKeeps (u.noteFetch true) (u.fetchMissState w) :=
  accessKeeps_recordParity _ _

theorem State.fetchMissState_keepsCaches : KeepsCaches u (u.fetchMissState w) := ⟨rfl, rfl⟩

theorem State.fetchMissState_acInForce : (u.fetchMissState w).acInForce = u.acInForce := rfl

theorem State.fetchMissState_busWord (r : BusReply) (v : WordAddr) :
    (u.fetchMissState w).busWord r v = u.busWord r v := by
  cases r <;> rfl

end

/-- With no flush outstanding every tag of the array that serves fetches is known (20_memory.md R127). -/
theorem State.tagsUndefined_fetchMissState {u : State} (h : u.awaitingFlush = false) (w : WordAddr) :
    ((u.fetchMissState w).cache u.fetchSide).tagsUndefined = false := by
  simp only [State.awaitingFlush, Bool.or_eq_false_iff] at h
  cases u.fetchSide
  exacts [h.1, h.2]

theorem State.refill_mem (s : State) (d : CacheSide) (r : BusReply) (ws : List WordAddr) :
    (s.refill d r ws).mem = s.mem := foldl_keeps State.mem _ (fun _ _ => by simp) _ _

theorem State.refillFailed_mem (s : State) (d : CacheSide) (x : FreeUse) (ws : List WordAddr) :
    (s.refillFailed d x ws).mem = s.mem := by
  unfold State.refillFailed
  split
  · exact foldl_keeps State.mem _ (fun _ _ => by simp) _ _
  · rfl

/-- After a refill that the bus answered: the block hits with what the bus gave, no other entry changed, and
neither memory nor the write buffer did (20_memory.md R126). -/
theorem State.fetchMissState_refill {u : State} (h : u.awaitingFlush = false) (w : WordAddr) (r : BusReply)
    (t : State) (ht : (u.fetchMissState w).refill u.fetchSide r (blockWords w) = t) :
    t.mem = u.mem ∧ t.writeBuffer = u.writeBuffer ∧ AccessKeeps (u.noteFetch true) t ∧
      (∀ k : BitVec 2, (t.fetchLookup (blockWord w k)).hit = true ∧
        (t.fetchLookup (blockWord w k)).word = u.busWord r (blockWord w k)) ∧
      (u.cp0.status.swc = false → t.dcache = u.dcache) ∧
      KeepsOtherEntries u t u.fetchSide (blockWords w) ∧
      t.cp0.status =
        { u.cp0.status with pe := u.cp0.status.pe || (u.fetchLookup w).parityError } := by
  have hu := State.tagsUndefined_fetchMissState h w
  subst ht
  refine ⟨State.refill_mem .., State.refill_writeBuffer ..,
    accessKeeps_trans (u.fetchMissState_accessKeeps w) (accessKeeps_refill ..), fun k => ?_,
    fun hs => (u.fetchMissState w).dcache_refill_fetch r _ hs,
    ((u.fetchMissState w).refill_keeps u.fetchSide r _ hu).congr (u.fetchMissState_keepsCaches w)
      (u.fetchMissState_acInForce w), ?_⟩
  · have hk := (u.fetchMissState w).fetchLookup_refill_block r w k hu
    rw [State.fetchMissState_busWord] at hk
    rw [show (u.fetchMissState w).refill u.fetchSide r (blockWords w) =
      (u.fetchMissState w).refill (u.fetchMissState w).fetchSide r (blockWords w) from rfl, hk]
    exact ⟨rfl, rfl⟩
  · rw [State.refill_cp0]
    rfl

/-- After a refill that ended in BusError (71_bus_interface.md R546, D43). -/
theorem State.fetchMissState_refillFailed {u : State} (h : u.awaitingFlush = false) (w : WordAddr)
    (t : State) (ht : (u.fetchMissState w).refillFailed u.fetchSide .fetchErrorLine (blockWords w) = t) :
    t.mem = u.mem ∧ t.writeBuffer = u.writeBuffer ∧ AccessKeeps (u.noteFetch true) t ∧
      RefillAborted u t u.fetchSide (blockWords w) ∧
      t.cp0.status =
        { u.cp0.status with pe := u.cp0.status.pe || (u.fetchLookup w).parityError } := by
  subst ht
  refine ⟨State.refillFailed_mem .., State.refillFailed_writeBuffer ..,
    accessKeeps_trans (u.fetchMissState_accessKeeps w) (State.refillFailed_keeps ..).1,
    (State.refillFailed_aborted _ _ _ _ (State.tagsUndefined_fetchMissState h w)).congr
      (u.fetchMissState_keepsCaches w) (u.fetchMissState_acInForce w), ?_⟩
  rw [State.refillFailed_cp0]
  rfl

/-! ## The obligation -/

/-- Settles O9: the fetch is its access after translation; each access is followed by its lookup and by the
reply of the bus. -/
theorem fetchReadsMemory : Obligations.FetchReadsMemory := by
  unfold Obligations.FetchReadsMemory
  refine ⟨fun s hkuc hal => ?_, fun s w w0 w1 w2 w3 =>
    ⟨blockWord_self w, rfl, s.busWord_device_blockWord w w0 w1 w2 w3⟩,
    fun s u pa w c ha hw => ?_⟩
  · have hal' : (s.pc.extractLsb' 0 2 == 0) = true := beq_iff_eq.2 hal
    rw [hal', s.address_kernel _ _ hkuc]
    exact ⟨s.translate_kseg1 _ _, s.translate_kseg0 _ _⟩
  subst hw
  have hu := State.address_ok ha
  have hseq : u.seq = s.seq := by rw [hu]; rfl
  refine ⟨hu, by rw [← hseq]; rfl, Cache.lookup_parity _ _ _ _ _ _, fun hc => ?_, fun hc => ?_⟩
  · subst hc
    rw [State.fetchWord_of_address ha]
    refine ⟨State.fetchUncached_pending (s := u.noteFetch false), fun hp =>
      ⟨State.fetchUncached_blocked (s := u.noteFetch false) hp, fun hbus => ⟨?_, ?_, ?_, ?_⟩⟩⟩
    · exact State.fetchUncached_memory (s := u.noteFetch false) hp hbus
    · exact fun _ _ _ _ => State.fetchUncached_device (s := u.noteFetch false) hp hbus
    · exact State.fetchUncached_busError (s := u.noteFetch false) hp hbus
    · exact State.fetchUncached_noAnswer (s := u.noteFetch false) hp hbus
  · subst hc
    rw [State.fetchWord_of_address ha]
    generalize wordAddress pa = w
    refine ⟨State.fetchAt_cacheCtl (s := u.noteFetch true) w,
      State.fetchAt_awaitingFlush (s := u.noteFetch true) w, fun hctl hf =>
      ⟨State.fetchAt_hit (s := u.noteFetch true) w hctl hf, fun hmiss => ?_⟩⟩
    have miss : (u.noteFetch true).fetchAt w true = (u.fetchMissState w).fetchMiss w :=
      State.fetchAt_miss (s := u.noteFetch true) w hctl hf hmiss
    rw [miss]
    refine ⟨State.fetchMiss_pending (s := u.fetchMissState w), fun hp =>
      ⟨fun r hbus hr he hn => ?_, fun hbus hr => ?_, fun hstop => ?_⟩⟩
    · rw [← u.fetchMissState_busWord w r w]
      exact ⟨_, State.fetchMiss_answered (s := u.fetchMissState w) hp hbus hr he hn,
        State.fetchMissState_refill hf w r _ rfl⟩
    · exact ⟨_, State.fetchMiss_busError (s := u.fetchMissState w) hp hbus hr,
        State.fetchMissState_refillFailed hf w _ rfl⟩
    · exact ⟨_, State.fetchMiss_never (s := u.fetchMissState w) hp hstop, rfl, rfl,
        u.fetchMissState_accessKeeps w, u.fetchMissState_keepsCaches w, rfl⟩

end Sys2Proof.Machine

/-! PROOFS. Instruction words as their fields: which fields a row of the opcode table fixes, which decoder
reads a word (30_encoding.md R141, R164). Statements O4 and O5. -/

namespace Sys2Proof

/-! ## A word is its fields (30_encoding.md R141) -/

theorem iType_fields (w : Word) : iType (opField w) (rsField w) (rtField w) (immField w) = w := by
  rw [iType, opField, rsField, rtField, immField, BitVec.extractLsb'_append_extractLsb'_eq_extractLsb',
    BitVec.extractLsb'_append_extractLsb'_eq_extractLsb',
    BitVec.extractLsb'_append_extractLsb'_eq_extractLsb', BitVec.extractLsb'_eq_self] <;> rfl

theorem rType_fields (w : Word) :
    rType (opField w) (rsField w) (rtField w) (rdField w) (shamtField w) (functField w) = w := by
  rw [rType, opField, rsField, rtField, rdField, shamtField, functField,
    BitVec.extractLsb'_append_extractLsb'_eq_extractLsb',
    BitVec.extractLsb'_append_extractLsb'_eq_extractLsb',
    BitVec.extractLsb'_append_extractLsb'_eq_extractLsb',
    BitVec.extractLsb'_append_extractLsb'_eq_extractLsb',
    BitVec.extractLsb'_append_extractLsb'_eq_extractLsb', BitVec.extractLsb'_eq_self] <;> rfl

/-- Bit 25, which tells a coprocessor operation, is the high bit of `rs` (30_encoding.md R153). -/
theorem getLsbD_25 (w : Word) : w.getLsbD 25 = (rsField w).getLsbD 4 := by
  simp [rsField]

/-! ## A word under the mask of a row (30_encoding.md R164) -/

theorem and_mask_op (w : Word) : w &&& 0xfc000000 = iType (opField w) 0 0 0 := by
  have h := iType_mask_op (opField w) (rsField w) (rtField w) (immField w)
  rwa [iType_fields] at h

theorem and_mask_op_rt (w : Word) : w &&& 0xfc1f0000 = iType (opField w) 0 (rtField w) 0 := by
  have h := iType_mask_op_rt (opField w) (rsField w) (rtField w) (immField w)
  rwa [iType_fields] at h

theorem and_mask_op_rs_rt (w : Word) :
    w &&& 0xffff0000 = iType (opField w) (rsField w) (rtField w) 0 := by
  have h := iType_mask_op_rs_rt (opField w) (rsField w) (rtField w) (immField w)
  rwa [iType_fields] at h

theorem and_mask_op_funct (w : Word) :
    w &&& 0xfc00003f = rType (opField w) 0 0 0 0 (functField w) := by
  have h := rType_mask_op_funct (opField w) (rsField w) (rtField w) (rdField w) (shamtField w) (functField w)
  rwa [rType_fields] at h

theorem and_mask_op_rs (w : Word) : w &&& 0xffe00000 = rType (opField w) (rsField w) 0 0 0 0 := by
  have h := rType_mask_op_rs (opField w) (rsField w) (rtField w) (rdField w) (shamtField w) (functField w)
  rwa [rType_fields] at h

theorem and_mask_op_rs_funct (w : Word) :
    w &&& 0xffe0003f = rType (opField w) (rsField w) 0 0 0 (functField w) := by
  have h := rType_mask_op_rs_funct (opField w) (rsField w) (rtField w) (rdField w) (shamtField w)
    (functField w)
  rwa [rType_fields] at h

/-- The bits a row of a COP0 operation fixes: `op`, bit 25 and bits 4:0 (30_encoding.md R153). -/
theorem and_mask_cop0Operation (w : Word) :
    w &&& 0xfe00001f = opField w ++ bit (w.getLsbD 25) ++ (0#20) ++ w.extractLsb' 0 5 := by
  apply BitVec.eq_of_getLsbD_eq
  intro i hi
  simp only [BitVec.getLsbD_and, BitVec.getLsbD_append, opField, bit]
  interval_cases i <;> simp

/-! ## The fields a word under a row's mask shows -/

section
variable {w m : Word}

theorem opField_of_mask_op (h : w &&& 0xfc000000 = m) : opField w = opField m := by
  rw [← h, and_mask_op, opField_iType]

theorem fields_of_mask_op_rt (h : w &&& 0xfc1f0000 = m) :
    opField w = opField m ∧ rtField w = rtField m := by
  rw [← h, and_mask_op_rt, opField_iType, rtField_iType]
  exact ⟨rfl, rfl⟩

theorem fields_of_mask_op_rs_rt (h : w &&& 0xffff0000 = m) :
    opField w = opField m ∧ rsField w = rsField m ∧ rtField w = rtField m := by
  rw [← h, and_mask_op_rs_rt, opField_iType, rsField_iType, rtField_iType]
  exact ⟨rfl, rfl, rfl⟩

theorem fields_of_mask_op_funct (h : w &&& 0xfc00003f = m) :
    opField w = opField m ∧ functField w = functField m := by
  rw [← h, and_mask_op_funct, opField_rType, functField_rType]
  exact ⟨rfl, rfl⟩

theorem fields_of_mask_op_rs (h : w &&& 0xffe00000 = m) :
    opField w = opField m ∧ rsField w = rsField m := by
  rw [← h, and_mask_op_rs, opField_rType, rsField_rType]
  exact ⟨rfl, rfl⟩

theorem fields_of_mask_op_rs_funct (h : w &&& 0xffe0003f = m) :
    opField w = opField m ∧ rsField w = rsField m ∧ functField w = functField m := by
  rw [← h, and_mask_op_rs_funct, opField_rType, rsField_rType, functField_rType]
  exact ⟨rfl, rfl, rfl⟩

theorem fields_of_mask_cop0Operation (h : w &&& 0xfe00001f = m) :
    opField w = opField m ∧ w.getLsbD 25 = m.getLsbD 25 ∧ w.extractLsb' 0 5 = m.extractLsb' 0 5 := by
  subst h
  simp only [opField, BitVec.extractLsb'_and, BitVec.getLsbD_and]
  exact ⟨BitVec.and_allOnes.symm, (Bool.and_true _).symm, BitVec.and_allOnes.symm⟩

end

/-! ## Which decoder reads a word (30_encoding.md R164) -/

section
variable {w : Word}

theorem decode_special (h : opField w = 0) : decode w = decodeSpecial w := by rw [decode, h]; rfl

theorem decode_bcond (h : opField w = 1) : decode w = decodeBcond w := by rw [decode, h]; rfl

theorem decode_cop0 (h : opField w = 0x10) : decode w = decodeCop0 w := by rw [decode, h]; rfl

theorem decode_cop1 (h : opField w = 0x11) : decode w = decodeCop1 w := by rw [decode, h]; rfl

theorem decode_cop2 (h : opField w = 0x12) : decode w = decodeCop23 2 .bc2f .bc2t w := by
  rw [decode, h]; rfl

theorem decode_cop3 (h : opField w = 0x13) : decode w = decodeCop23 3 .bc3f .bc3t w := by
  rw [decode, h]; rfl

theorem decodeCop0_operation (h : w.getLsbD 25 = true) : decodeCop0 w = decodeCop0Operation w := if_pos h

theorem decodeCop1_operation (h : w.getLsbD 25 = true) : decodeCop1 w = decodeFpaOperation w := if_pos h

theorem decode_bc0 (hop : opField w = 0x10) (hrs : rsField w = 8) :
    decode w = decodeBranchCond 0 .bc0f .bc0t w := by
  rw [decode_cop0 hop, decodeCop0, getLsbD_25, hrs]; rfl

theorem decode_bc1 (hop : opField w = 0x11) (hrs : rsField w = 8) :
    decode w = decodeBranchCond 1 .bc1f .bc1t w := by
  rw [decode_cop1 hop, decodeCop1, getLsbD_25, hrs]; rfl

theorem decodeCop23_branch (z : BitVec 2) (onFalse onTrue : BitVec 16 → Instr) (hrs : rsField w = 8) :
    decodeCop23 z onFalse onTrue w = decodeBranchCond z onFalse onTrue w := by
  rw [decodeCop23, getLsbD_25, hrs]; rfl

theorem decode_bc2 (hop : opField w = 0x12) (hrs : rsField w = 8) :
    decode w = decodeBranchCond 2 .bc2f .bc2t w := (decode_cop2 hop).trans (decodeCop23_branch _ _ _ hrs)

theorem decode_bc3 (hop : opField w = 0x13) (hrs : rsField w = 8) :
    decode w = decodeBranchCond 3 .bc3f .bc3t w := (decode_cop3 hop).trans (decodeCop23_branch _ _ _ hrs)

theorem decode_fpa_single (hop : opField w = 0x11) (hrs : rsField w = 0x10) :
    decode w = decodeFpaSingle w := by
  rw [decode_cop1 hop, decodeCop1_operation (by rw [getLsbD_25, hrs]; rfl), decodeFpaOperation, hrs]; rfl

theorem decode_fpa_double (hop : opField w = 0x11) (hrs : rsField w = 0x11) :
    decode w = decodeFpaDouble w := by
  rw [decode_cop1 hop, decodeCop1_operation (by rw [getLsbD_25, hrs]; rfl), decodeFpaOperation, hrs]; rfl

theorem decode_fpa_fixed (hop : opField w = 0x11) (hrs : rsField w = 0x14) :
    decode w = decodeFpaFixed w := by
  rw [decode_cop1 hop, decodeCop1_operation (by rw [getLsbD_25, hrs]; rfl), decodeFpaOperation, hrs]; rfl

end

/-! ## The row of a decoded word -/

section
variable {w : Word} {i : Instr}

theorem row_of_decodeSpecial (hop : opField w = 0) (h : decodeSpecial w = .ok i) :
    w &&& opcodeMask i = opcodeMatch i := by
  have row {m : Word} (hm : rType 0 0 0 0 0 (functField w) = m) : w &&& 0xfc00003f = m := by
    rw [and_mask_op_funct, hop, hm]
  unfold decodeSpecial at h
  split at h <;> rename_i hf <;> cases h <;> exact row (by rw [hf]; rfl)

theorem row_of_decodeBcond (hop : opField w = 1) (h : decodeBcond w = .ok i) :
    w &&& opcodeMask i = opcodeMatch i := by
  have row {m : Word} (hm : iType 1 0 (rtField w) 0 = m) : w &&& 0xfc1f0000 = m := by
    rw [and_mask_op_rt, hop, hm]
  unfold decodeBcond at h
  split at h <;> rename_i hrt <;> cases h <;> exact row (by rw [hrt]; rfl)

theorem row_of_decodeCop0Operation (hop : opField w = 0x10) (h25 : w.getLsbD 25 = true)
    (h : decodeCop0Operation w = .ok i) : w &&& opcodeMask i = opcodeMatch i := by
  have row {m : Word} (hm : (0x10 : BitVec 6) ++ bit true ++ (0#20) ++ w.extractLsb' 0 5 = m) :
      w &&& 0xfe00001f = m := by
    rw [and_mask_cop0Operation, hop, h25, hm]
  unfold decodeCop0Operation at h
  split at h <;> rename_i hf <;> cases h <;> exact row (by rw [hf]; rfl)

/-- A branch on a coprocessor condition shows false or true in `rt` (30_encoding.md R152). -/
theorem decodeBranchCond_ok {z : BitVec 2} {onFalse onTrue : BitVec 16 → Instr}
    (h : decodeBranchCond z onFalse onTrue w = .ok i) :
    (rtField w = 0 ∧ i = onFalse (immField w)) ∨ (rtField w = 1 ∧ i = onTrue (immField w)) := by
  unfold decodeBranchCond at h
  split at h <;> rename_i hrt <;> cases h
  · exact .inl ⟨hrt, rfl⟩
  · exact .inr ⟨hrt, rfl⟩

/-- The row of a branch on the condition of the coprocessor whose major opcode is `op`. -/
theorem row_of_decodeBranchCond {op : BitVec 6} {z : BitVec 2} {onFalse onTrue : BitVec 16 → Instr}
    (hop : opField w = op) (hrs : rsField w = 8)
    (hf : ∀ x, opcodeMask (onFalse x) = 0xffff0000 ∧ opcodeMatch (onFalse x) = iType op 8 0 0)
    (ht : ∀ x, opcodeMask (onTrue x) = 0xffff0000 ∧ opcodeMatch (onTrue x) = iType op 8 1 0)
    (h : decodeBranchCond z onFalse onTrue w = .ok i) : w &&& opcodeMask i = opcodeMatch i := by
  rcases decodeBranchCond_ok h with ⟨hrt, rfl⟩ | ⟨hrt, rfl⟩
  · rw [(hf _).1, (hf _).2, and_mask_op_rs_rt, hop, hrs, hrt]
  · rw [(ht _).1, (ht _).2, and_mask_op_rs_rt, hop, hrs, hrt]

theorem row_of_decodeCop0 (hop : opField w = 0x10) (h : decodeCop0 w = .ok i) :
    w &&& opcodeMask i = opcodeMatch i := by
  have row {m : Word} (hm : rType 0x10 (rsField w) 0 0 0 0 = m) : w &&& 0xffe00000 = m := by
    rw [and_mask_op_rs, hop, hm]
  unfold decodeCop0 at h
  split at h
  next h25 => exact row_of_decodeCop0Operation hop h25 h
  split at h <;> rename_i hrs
  · cases h; exact row (by rw [hrs]; rfl)
  · cases h; exact row (by rw [hrs]; rfl)
  · exact row_of_decodeBranchCond hop hrs (fun _ => ⟨rfl, rfl⟩) (fun _ => ⟨rfl, rfl⟩) h
  · cases h

theorem row_of_decodeFpaOperation (hop : opField w = 0x11) (h : decodeFpaOperation w = .ok i) :
    w &&& opcodeMask i = opcodeMatch i := by
  have row {rs : Reg} {f : BitVec 6} {m : Word} (hrs : rsField w = rs) (hf : functField w = f)
      (hm : rType 0x11 rs 0 0 0 f = m) : w &&& 0xffe0003f = m := by
    rw [and_mask_op_rs_funct, hop, hrs, hf, hm]
  unfold decodeFpaOperation at h
  split at h <;> rename_i hrs
  · unfold decodeFpaSingle at h
    split at h <;> rename_i hf <;> cases h <;> exact row hrs hf rfl
  · unfold decodeFpaDouble at h
    split at h <;> rename_i hf <;> cases h <;> exact row hrs hf rfl
  · unfold decodeFpaFixed at h
    split at h <;> rename_i hf <;> cases h <;> exact row hrs hf rfl
  · cases h

theorem row_of_decodeCop1 (hop : opField w = 0x11) (h : decodeCop1 w = .ok i) :
    w &&& opcodeMask i = opcodeMatch i := by
  have row {m : Word} (hm : rType 0x11 (rsField w) 0 0 0 0 = m) : w &&& 0xffe00000 = m := by
    rw [and_mask_op_rs, hop, hm]
  unfold decodeCop1 at h
  split at h
  · exact row_of_decodeFpaOperation hop h
  split at h <;> rename_i hrs
  · cases h; exact row (by rw [hrs]; rfl)
  · cases h; exact row (by rw [hrs]; rfl)
  · cases h; exact row (by rw [hrs]; rfl)
  · cases h; exact row (by rw [hrs]; rfl)
  · exact row_of_decodeBranchCond hop hrs (fun _ => ⟨rfl, rfl⟩) (fun _ => ⟨rfl, rfl⟩) h
  · cases h

/-- Of COP2 and COP3 only the branches decode (30_encoding.md R160 g). -/
theorem decodeCop23_ok {z : BitVec 2} {onFalse onTrue : BitVec 16 → Instr}
    (h : decodeCop23 z onFalse onTrue w = .ok i) :
    rsField w = 8 ∧ decodeBranchCond z onFalse onTrue w = .ok i := by
  unfold decodeCop23 at h
  split at h
  · cases h
  split at h <;> rename_i hrs
  · exact ⟨hrs, h⟩
  · cases h

/-- A word that decodes shows the bits of its instruction's row of the opcode table
(30_encoding.md R164). -/
theorem row_of_decode (h : decode w = .ok i) : w &&& opcodeMask i = opcodeMatch i := by
  have row {m : Word} (hm : iType (opField w) 0 0 0 = m) : w &&& 0xfc000000 = m := by
    rw [and_mask_op, hm]
  unfold decode at h
  split at h <;> rename_i hop
  · exact row_of_decodeSpecial hop h
  · exact row_of_decodeBcond hop h
  · exact row_of_decodeCop0 hop h
  · exact row_of_decodeCop1 hop h
  · obtain ⟨hrs, h⟩ := decodeCop23_ok h
    exact row_of_decodeBranchCond hop hrs (fun _ => ⟨rfl, rfl⟩) (fun _ => ⟨rfl, rfl⟩) h
  · obtain ⟨hrs, h⟩ := decodeCop23_ok h
    exact row_of_decodeBranchCond hop hrs (fun _ => ⟨rfl, rfl⟩) (fun _ => ⟨rfl, rfl⟩) h
  all_goals cases h
  all_goals exact row (by rw [hop]; rfl)

end

/-! ## The obligations -/

/-- Settles O5: a decoded word shows its row's bits; and the bits of a row give the fields that select it, so
that the decoder reads the row's instruction off the word. The rows are taken format by format, by their mask
and the decoder that reads them. -/
theorem decodeMatchesOpcodeTable : Obligations.DecodeMatchesOpcodeTable := by
  unfold Obligations.DecodeMatchesOpcodeTable
  refine ⟨fun _ _ => row_of_decode, fun w => ?_⟩
  and_intros <;> intro h
  -- `op` alone
  any_goals
    rw [decode, opField_of_mask_op h]
    rfl
  -- SPECIAL
  any_goals
    obtain ⟨hop, hf⟩ := fields_of_mask_op_funct h
    rw [decode_special hop, decodeSpecial, hf]
    rfl
  -- BCOND
  any_goals
    obtain ⟨hop, hrt⟩ := fields_of_mask_op_rt h
    rw [decode_bcond hop, decodeBcond, hrt]
    rfl
  -- the moves of COP0, then of COP1
  any_goals
    obtain ⟨hop, hrs⟩ := fields_of_mask_op_rs h
    rw [decode_cop0 hop, decodeCop0, getLsbD_25, hrs]
    rfl
  any_goals
    obtain ⟨hop, hrs⟩ := fields_of_mask_op_rs h
    rw [decode_cop1 hop, decodeCop1, getLsbD_25, hrs]
    rfl
  -- the operations of COP0
  any_goals
    obtain ⟨hop, h25, hf⟩ := fields_of_mask_cop0Operation h
    rw [decode_cop0 hop, decodeCop0_operation h25, decodeCop0Operation, hf]
    rfl
  -- the branches on the conditions of coprocessors 0 to 3
  any_goals
    obtain ⟨hop, hrs, hrt⟩ := fields_of_mask_op_rs_rt h
    rw [decode_bc0 hop hrs, decodeBranchCond, hrt]
    rfl
  any_goals
    obtain ⟨hop, hrs, hrt⟩ := fields_of_mask_op_rs_rt h
    rw [decode_bc1 hop hrs, decodeBranchCond, hrt]
    rfl
  any_goals
    obtain ⟨hop, hrs, hrt⟩ := fields_of_mask_op_rs_rt h
    rw [decode_bc2 hop hrs, decodeBranchCond, hrt]
    rfl
  any_goals
    obtain ⟨hop, hrs, hrt⟩ := fields_of_mask_op_rs_rt h
    rw [decode_bc3 hop hrs, decodeBranchCond, hrt]
    rfl
  -- the operations of COP1, by format
  any_goals
    obtain ⟨hop, hrs, hf⟩ := fields_of_mask_op_rs_funct h
    rw [decode_fpa_single hop hrs, decodeFpaSingle, hf]
    rfl
  any_goals
    obtain ⟨hop, hrs, hf⟩ := fields_of_mask_op_rs_funct h
    rw [decode_fpa_double hop hrs, decodeFpaDouble, hf]
    rfl
  all_goals
    obtain ⟨hop, hrs, hf⟩ := fields_of_mask_op_rs_funct h
    rw [decode_fpa_fixed hop hrs, decodeFpaFixed, hf]
    rfl

/-- Settles O4: an encoded word has the selecting fields of its instruction, so that the instruction's decoder
reads it and finds the operands where `encode` put them. -/
theorem decodeEncodeRoundTrip : Obligations.DecodeEncodeRoundTrip := by
  unfold Obligations.DecodeEncodeRoundTrip
  intro i
  cases i with
  | lb | lh | lwl | lw | lbu | lhu | lwr | sb | sh | swl | sw | swr | addi | addiu | slti | sltiu | andi
  | ori | xori | lui | j | jal | beq | bne | blez | bgtz | lwc1 | swc1 => simp [encode, decode]
  | add | addu | sub | subu | and | or | xor | nor | slt | sltu | sll | srl | sra | sllv | srlv | srav
  | mult | multu | div | divu | mfhi | mthi | mflo | mtlo | jr | jalr | syscall | brk =>
    simp [encode, decode_special, decodeSpecial]
  | bltz | bgez | bltzal | bgezal => simp [encode, decode_bcond, decodeBcond]
  | mfc0 | mtc0 => simp [encode, decode_cop0, decodeCop0, getElem_25_rType]
  | tlbr | tlbwi | tlbwr | tlbp | rfe => rfl
  | mfc1 | cfc1 | mtc1 | ctc1 => simp [encode, decode_cop1, decodeCop1, getElem_25_rType]
  | bc0f | bc0t => simp [encode, decode_bc0, decodeBranchCond]
  | bc1f | bc1t => simp [encode, decode_bc1, decodeBranchCond]
  | bc2f | bc2t => simp [encode, decode_bc2, decodeBranchCond]
  | bc3f | bc3t => simp [encode, decode_bc3, decodeBranchCond]
  | addS | subS | mulS | divS | absS | movS | negS | cvtDS | cvtWS | cFS | cUnS | cEqS | cUeqS | cOltS
  | cUltS | cOleS | cUleS | cSfS | cNgleS | cSeqS | cNglS | cLtS | cNgeS | cLeS | cNgtS =>
    simp [encode, decode_fpa_single, decodeFpaSingle]
  | addD | subD | mulD | divD | absD | movD | negD | cvtSD | cvtWD | cFD | cUnD | cEqD | cUeqD | cOltD
  | cUltD | cOleD | cUleD | cSfD | cNgleD | cSeqD | cNglD | cLtD | cNgeD | cLeD | cNgtD =>
    simp [encode, decode_fpa_double, decodeFpaDouble]
  | cvtSW | cvtDW => simp [encode, decode_fpa_fixed, decodeFpaFixed]

/-- Every row fixes the major opcode (30_encoding.md R164). -/
theorem opField_opcodeMask (i : Instr) : opField (opcodeMask i) = 0x3f := by
  cases i <;> rw [opcodeMask] <;> rfl

/-- The major opcode of a word that decodes is the one `encode` gives its instruction. -/
theorem opField_of_decode {w : Word} {i : Instr} (h : decode w = .ok i) : opField w = opField (encode i) := by
  have hop (v : Word) : opField (v &&& opcodeMask i) = opField v := by
    rw [opField, BitVec.extractLsb'_and, ← opField, ← opField, opField_opcodeMask]
    exact BitVec.and_allOnes
  rw [← hop w, row_of_decode h, ← hop (encode i), row_of_decode (decodeEncodeRoundTrip i)]

end Sys2Proof

/-! PROOFS. Jumps: the target of J and JAL, and what the four jumps leave (42_jump_branch.md R240 to R245).
Statement O34. -/

namespace Sys2Proof.Machine

/-- The region of the delay slot, the field and two zeros (30_encoding.md R146). -/
theorem jumpTarget_eq (pc : Word) (target : BitVec 26) :
    jumpTarget pc target = ((pc + 4#32) &&& 0xf0000000#32) ||| (target.setWidth 32 <<< 2) := by
  unfold jumpTarget
  generalize pc + 4 = d
  apply BitVec.eq_of_getLsbD_eq
  intro i hi
  simp only [BitVec.getLsbD_append, BitVec.getLsbD_or, BitVec.getLsbD_and, BitVec.getLsbD_shiftLeft]
  interval_cases i <;> simp

/-- Settles O34: each is one of the two transfers, and r31 is not r0. -/
theorem jumpResults : Obligations.JumpResults := by
  unfold Obligations.JumpResults
  intro s rs rd target h
  rw [← jumpTarget_eq]
  refine ⟨s.transfer_shape _ h, ?_, s.transfer_shape _ h, s.transferLink_shape rd _ h⟩
  have hlink : (fun r : Reg => if r = 31 ∧ r ≠ 0 then s.pc + 8 else s.readMerged r) =
      fun r => if r = 31 then s.pc + 8 else s.readMerged r := by
    funext r
    exact if_congr (and_iff_left_of_imp (by rintro rfl; decide)) rfl rfl
  exact hlink ▸ s.transferLink_shape 31 _ h

end Sys2Proof.Machine

/-! PROOFS. Words that are no instruction: which decoding error each gives, what the machine then does, and the
words of an FPA that is not there (30_encoding.md R160, R161). Statement O7. -/

namespace Sys2Proof

/-! ## Reserved cells of the decoding tables (30_encoding.md R160) -/

section
variable {w : Word}

/-- The reserved major opcodes (30_encoding.md R160 a). -/
theorem decode_reserved (h : (20 ≤ (opField w).toNat ∧ (opField w).toNat ≤ 31) ∨ (opField w).toNat = 39 ∨
      (opField w).toNat = 44 ∨ (opField w).toNat = 45 ∨ (opField w).toNat = 47 ∨
      (52 ≤ (opField w).toNat ∧ (opField w).toNat ≤ 55) ∨ 60 ≤ (opField w).toNat) :
    decode w = .error .reservedInstruction := by
  unfold decode
  generalize opField w = op at h ⊢
  split
  any_goals rfl
  all_goals exact absurd h (by decide)

/-- The reserved functions of SPECIAL (30_encoding.md R160 b). -/
theorem decodeSpecial_reserved (h : functField w = 1 ∨ functField w = 5 ∨ functField w = 0xa ∨
      functField w = 0xb ∨ functField w = 0xe ∨ functField w = 0xf ∨
      (0x14 ≤ (functField w).toNat ∧ (functField w).toNat ≤ 0x17) ∨
      (0x1c ≤ (functField w).toNat ∧ (functField w).toNat ≤ 0x1f) ∨ functField w = 0x28 ∨
      functField w = 0x29 ∨ 0x2c ≤ (functField w).toNat) :
    decodeSpecial w = .error .reservedInstruction := by
  unfold decodeSpecial
  generalize functField w = f at h ⊢
  split
  any_goals rfl
  all_goals exact absurd h (by decide)

theorem decodeBcond_undefined (h : rtField w ≠ 0 ∧ rtField w ≠ 1 ∧ rtField w ≠ 16 ∧ rtField w ≠ 17) :
    decodeBcond w = .error .undefinedBcond := by
  unfold decodeBcond
  generalize rtField w = rt at h ⊢
  split
  any_goals rfl
  all_goals exact absurd h (by decide)

theorem decodeBranchCond_undefined (z : BitVec 2) (onFalse onTrue : BitVec 16 → Instr)
    (h : 2 ≤ (rtField w).toNat) :
    decodeBranchCond z onFalse onTrue w = .error (.undefinedCoprocessorOp z) := by
  unfold decodeBranchCond
  generalize rtField w = rt at h ⊢
  split
  any_goals rfl
  all_goals exact absurd h (by decide)

theorem decodeCop0Operation_undefined (h : w.extractLsb' 0 5 ≠ 1 ∧ w.extractLsb' 0 5 ≠ 2 ∧
      w.extractLsb' 0 5 ≠ 6 ∧ w.extractLsb' 0 5 ≠ 8 ∧ w.extractLsb' 0 5 ≠ 16) :
    decodeCop0Operation w = .error (.undefinedCoprocessorOp 0) := by
  unfold decodeCop0Operation
  generalize w.extractLsb' 0 5 = f at h ⊢
  split
  any_goals rfl
  all_goals exact absurd h (by decide)

theorem getLsbD_25_iff (w : Word) : w.getLsbD 25 = true ↔ 16 ≤ (rsField w).toNat := by
  rw [getLsbD_25]
  generalize rsField w = rs
  revert rs
  decide

section
variable (hbc : rsField w = 8 → 2 ≤ (rtField w).toNat)
include hbc

/-- The words of COP0 with no meaning (30_encoding.md R160 d, e). -/
theorem decodeCop0_undefined (h0 : rsField w ≠ 0) (h4 : rsField w ≠ 4)
    (hop : 16 ≤ (rsField w).toNat → w.extractLsb' 0 5 ≠ 1 ∧ w.extractLsb' 0 5 ≠ 2 ∧
      w.extractLsb' 0 5 ≠ 6 ∧ w.extractLsb' 0 5 ≠ 8 ∧ w.extractLsb' 0 5 ≠ 16) :
    decodeCop0 w = .error (.undefinedCoprocessorOp 0) := by
  unfold decodeCop0
  split
  next h25 => exact decodeCop0Operation_undefined (hop ((getLsbD_25_iff w).1 h25))
  split
  next h => exact absurd h h0
  next h => exact absurd h h4
  next h => exact decodeBranchCond_undefined _ _ _ (hbc h)
  next => rfl

/-- The words of COP1 with no meaning but its operations (30_encoding.md R160 d). -/
theorem decodeCop1_undefined (h0 : rsField w ≠ 0) (h2 : rsField w ≠ 2) (h4 : rsField w ≠ 4)
    (h6 : rsField w ≠ 6) (h16 : (rsField w).toNat < 16) :
    decodeCop1 w = .error (.undefinedCoprocessorOp 1) := by
  unfold decodeCop1
  split
  next h25 => exact absurd ((getLsbD_25_iff w).1 h25) (Nat.not_le.2 h16)
  split
  next h => exact absurd h h0
  next h => exact absurd h h2
  next h => exact absurd h h4
  next h => exact absurd h h6
  next h => exact decodeBranchCond_undefined _ _ _ (hbc h)
  next => rfl

/-- The words of COP2 and COP3 with no meaning (30_encoding.md R160 g). -/
theorem decodeCop23_undefined (z : BitVec 2) (onFalse onTrue : BitVec 16 → Instr) :
    decodeCop23 z onFalse onTrue w = .error (.undefinedCoprocessorOp z) := by
  unfold decodeCop23
  split
  next => rfl
  split
  next h => exact decodeBranchCond_undefined _ _ _ (hbc h)
  next => rfl

end

theorem coprocessor_cases (z : BitVec 2) : z = 0 ∨ z = 1 ∨ z = 2 ∨ z = 3 := by
  revert z; decide

/-- Coprocessor words with no meaning, by coprocessor (30_encoding.md R160 d, e, g). -/
theorem decode_undefinedCoprocessor {z : BitVec 2} (hop : opField w = (0b0100#4) ++ z)
    (h : (2 ≤ z.toNat ∧ rsField w ≠ 8) ∨ (rsField w = 8 ∧ 2 ≤ (rtField w).toNat) ∨ rsField w = 1 ∨
      rsField w = 3 ∨ rsField w = 5 ∨ rsField w = 7 ∨
      (9 ≤ (rsField w).toNat ∧ (rsField w).toNat ≤ 15) ∨
      (z = 0 ∧ (rsField w = 2 ∨ rsField w = 6 ∨ (16 ≤ (rsField w).toNat ∧
        w.extractLsb' 0 5 ≠ 1 ∧ w.extractLsb' 0 5 ≠ 2 ∧ w.extractLsb' 0 5 ≠ 6 ∧
        w.extractLsb' 0 5 ≠ 8 ∧ w.extractLsb' 0 5 ≠ 16)))) :
    decode w = .error (.undefinedCoprocessorOp z) := by
  have hbc : rsField w = 8 → 2 ≤ (rtField w).toNat := fun hrs => by simpa [hrs] using h
  rcases coprocessor_cases z with rfl | rfl | rfl | rfl
  · rw [decode_cop0 hop]
    refine decodeCop0_undefined hbc (fun hrs => by simp [hrs] at h) (fun hrs => by simp [hrs] at h)
      fun h16 => ?_
    rcases h with ⟨h, -⟩ | ⟨h, -⟩ | h | h | h | h | ⟨-, h⟩ | ⟨-, h | h | ⟨-, h⟩⟩
    case inl => exact absurd h (by decide)
    any_goals exact h
    all_goals bv_omega
  · rw [decode_cop1 hop]
    refine decodeCop1_undefined hbc (fun hrs => by simp [hrs] at h) (fun hrs => by simp [hrs] at h)
      (fun hrs => by simp [hrs] at h) (fun hrs => by simp [hrs] at h) ?_
    rcases h with ⟨h, -⟩ | ⟨h, -⟩ | h | h | h | h | ⟨-, h⟩ | ⟨h, -⟩
    all_goals bv_omega
  · rw [decode_cop2 hop]
    exact decodeCop23_undefined hbc ..
  · rw [decode_cop3 hop]
    exact decodeCop23_undefined hbc ..

/-- LWC0, LWC2, LWC3, SWC0, SWC2, SWC3 words (30_encoding.md R160 h). -/
theorem decode_undefinedTransfer {z : BitVec 2} (hz : z ≠ 1)
    (hop : opField w = (0b1100#4) ++ z ∨ opField w = (0b1110#4) ++ z) :
    decode w = .error (.undefinedCoprocessorOp z) := by
  rcases coprocessor_cases z with rfl | rfl | rfl | rfl
  case inr.inl => exact absurd rfl hz
  all_goals rcases hop with hop | hop <;> rw [decode, hop] <;> rfl

/-! ## Which errors a coprocessor word can give (30_encoding.md R160, R161) -/

section
variable {e : DecodeError}

theorem decodeBranchCond_error {z : BitVec 2} {onFalse onTrue : BitVec 16 → Instr}
    (h : decodeBranchCond z onFalse onTrue w = .error e) : e = .undefinedCoprocessorOp z := by
  unfold decodeBranchCond at h
  split at h <;> cases h
  rfl

theorem decodeCop0_error (h : decodeCop0 w = .error e) : e = .undefinedCoprocessorOp 0 := by
  unfold decodeCop0 at h
  split at h
  · unfold decodeCop0Operation at h
    split at h <;> cases h
    rfl
  split at h
  · cases h
  · cases h
  · exact decodeBranchCond_error h
  · cases h
    rfl

theorem decodeFpaOperation_error (h : decodeFpaOperation w = .error e) : e = .reservedFpaOp := by
  unfold decodeFpaOperation at h
  split at h
  · unfold decodeFpaSingle at h
    split at h <;> cases h
    rfl
  · unfold decodeFpaDouble at h
    split at h <;> cases h
    rfl
  · unfold decodeFpaFixed at h
    split at h <;> cases h
    rfl
  · cases h
    rfl

theorem decodeCop1_error (h : decodeCop1 w = .error e) :
    e = .undefinedCoprocessorOp 1 ∨ e = .reservedFpaOp := by
  unfold decodeCop1 at h
  split at h
  · exact .inr (decodeFpaOperation_error h)
  split at h
  any_goals cases h
  · exact .inl (decodeBranchCond_error h)
  · exact .inl rfl

theorem decodeCop23_error {z : BitVec 2} {onFalse onTrue : BitVec 16 → Instr}
    (h : decodeCop23 z onFalse onTrue w = .error e) : e = .undefinedCoprocessorOp z := by
  unfold decodeCop23 at h
  split at h
  · cases h
    rfl
  split at h
  · exact decodeBranchCond_error h
  · cases h
    rfl

/-- A word of coprocessor `z` that is no instruction names `z`, or is a reserved FPA operation. -/
theorem decode_error_of_coprocessor {z : BitVec 2}
    (hop : opField w = (0b0100#4) ++ z ∨ opField w = (0b1100#4) ++ z ∨ opField w = (0b1110#4) ++ z)
    (h : decode w = .error e) : e = .undefinedCoprocessorOp z ∨ (z = 1 ∧ e = .reservedFpaOp) := by
  rcases hop with hop | hop
  · rcases coprocessor_cases z with rfl | rfl | rfl | rfl
    · exact .inl (decodeCop0_error (decode_cop0 hop ▸ h))
    · exact (decodeCop1_error (decode_cop1 hop ▸ h)).imp_right (⟨rfl, ·⟩)
    · exact .inl (decodeCop23_error (decode_cop2 hop ▸ h))
    · exact .inl (decodeCop23_error (decode_cop3 hop ▸ h))
  · by_cases hz : z = 1
    · subst hz
      rcases hop with hop | hop <;> rw [decode, hop] at h <;> cases h
    · rw [decode_undefinedTransfer hz hop] at h
      cases h
      exact .inl rfl

end

/-! ## The operations of the FPA (45_fpa_formats.md R322) -/

/-- The words of COP1 with fmt S that are no operation (45_fpa_formats.md R322 c, d). -/
theorem decodeFpaSingle_error_iff : decodeFpaSingle w = .error .reservedFpaOp ↔
    ¬ ((functField w).toNat ∈ [0, 1, 2, 3, 5, 6, 7, 33, 36] ∨ 48 ≤ (functField w).toNat) := by
  unfold decodeFpaSingle
  generalize functField w = f
  split
  case h_26 =>
    refine iff_of_true rfl ?_
    simp only [List.mem_cons, List.not_mem_nil, or_false, imp_false, ← BitVec.toNat_inj,
      BitVec.toNat_ofNat] at *
    omega
  all_goals exact iff_of_false nofun (by decide)

/-- The words of COP1 with fmt D that are no operation (45_fpa_formats.md R322 c, d). -/
theorem decodeFpaDouble_error_iff : decodeFpaDouble w = .error .reservedFpaOp ↔
    ¬ ((functField w).toNat ∈ [0, 1, 2, 3, 5, 6, 7, 32, 36] ∨ 48 ≤ (functField w).toNat) := by
  unfold decodeFpaDouble
  generalize functField w = f
  split
  case h_26 =>
    refine iff_of_true rfl ?_
    simp only [List.mem_cons, List.not_mem_nil, or_false, imp_false, ← BitVec.toNat_inj,
      BitVec.toNat_ofNat] at *
    omega
  all_goals exact iff_of_false nofun (by decide)

/-- The words of COP1 with fmt W that are no operation (45_fpa_formats.md R322 c, d). -/
theorem decodeFpaFixed_error_iff : decodeFpaFixed w = .error .reservedFpaOp ↔
    ¬ (functField w).toNat ∈ [32, 33] := by
  unfold decodeFpaFixed
  generalize functField w = f
  split
  case h_3 =>
    refine iff_of_true rfl ?_
    simp only [List.mem_cons, List.not_mem_nil, or_false, imp_false, ← BitVec.toNat_inj,
      BitVec.toNat_ofNat] at *
    omega
  all_goals exact iff_of_false nofun (by decide)

/-- The words of COP1 with bit 25 set that are no operation (46_fpa_instructions.md R368). -/
theorem decodeFpaOperation_error_iff : decodeFpaOperation w = .error .reservedFpaOp ↔
    ¬ ((rsField w = 16 ∧ (functField w).toNat ∈ [0, 1, 2, 3, 5, 6, 7, 33, 36]) ∨
      (rsField w = 17 ∧ (functField w).toNat ∈ [0, 1, 2, 3, 5, 6, 7, 32, 36]) ∨
      (rsField w = 20 ∧ (functField w).toNat ∈ [32, 33]) ∨
      ((rsField w = 16 ∨ rsField w = 17) ∧ 48 ≤ (functField w).toNat)) := by
  unfold decodeFpaOperation
  generalize rsField w = rs
  split
  · rw [decodeFpaSingle_error_iff]
    simp
  · rw [decodeFpaDouble_error_iff]
    simp
  · rw [decodeFpaFixed_error_iff]
    simp
  next h16 h17 h20 =>
    refine iff_of_true rfl ?_
    rintro (⟨h, -⟩ | ⟨h, -⟩ | ⟨h, -⟩ | ⟨h | h, -⟩)
    exacts [h16 h, h17 h, h20 h, h16 h, h17 h]

end

end Sys2Proof

namespace Sys2Proof.Machine

/-! ## What the machine does with such a word (30_encoding.md R160, R161) -/

theorem State.fetchDecode_of_undefined {s u : State} {w : Word} {e : DecodeError}
    (hfetch : s.fetchWord = .ok w u) (hdecode : decode w = .error e) :
    s.fetchDecode = .done (u.undefinedWord e) := by
  simp only [State.fetchDecode, hfetch, hdecode]

theorem State.fpaInstruction_of_unusable {s : State} (h : s.usable 1 = false) (k : Result) :
    s.fpaInstruction k = s.raise (.cpu 1) := by
  rw [State.fpaInstruction, h]
  rfl

/-- An unusable coprocessor comes before any sub-decoding (30_encoding.md R161). -/
theorem State.undefinedWord_of_unusable {s : State} {z : BitVec 2} {e : DecodeError}
    (hz : s.usable z = false) (he : e = .undefinedCoprocessorOp z ∨ (z = 1 ∧ e = .reservedFpaOp)) :
    s.undefinedWord e = s.raise (.cpu z) := by
  rcases he with rfl | ⟨rfl, rfl⟩
  · simp [State.undefinedWord, hz]
  · exact State.fpaInstruction_of_unusable hz _

theorem State.undefinedWord_of_usable {s : State} {z : BitVec 2} (hz : s.usable z = true) :
    s.undefinedWord (.undefinedCoprocessorOp z) =
      .refused (if z = 1 ∧ s.chip.hasFpa = false then .noFpa else .undefinedCoprocessorOp z) := by
  rw [apply_ite Host.Outcome.refused]
  simp [State.undefinedWord, hz]

/-- A reserved operation of a ready FPA raises Unimplemented Operation (46_fpa_instructions.md R368). -/
theorem State.undefinedWord_fpaTrap {s : State} (h : FpaReady s) :
    FpTrapResult s 0x20 (s.undefinedWord .reservedFpaOp) := by
  rw [State.undefinedWord, State.fpaInstruction_of_ready h]
  exact s.fpTrap_shape _ (.inl rfl)

/-! ## No FPA (43_special_coprocessor.md R276) -/

/-- CU1 is set on a part with no FPA. -/
def FpaAbsent (s : State) : Prop := s.cp0.status.cu.getLsbD 1 = true ∧ s.chip.hasFpa = false

theorem FpaAbsent.fpaInstruction {s : State} (h : FpaAbsent s) (k : Result) :
    s.fpaInstruction k = .refused .noFpa := by
  obtain ⟨hcu, hfpa⟩ := h
  rw [State.fpaInstruction, State.usable_one hcu, hfpa]
  rfl

/-- Every word of coprocessor 1 that is no instruction is refused. -/
theorem FpaAbsent.undefinedWord {s : State} {e : DecodeError} (h : FpaAbsent s)
    (he : e = .undefinedCoprocessorOp 1 ∨ e = .reservedFpaOp) : s.undefinedWord e = .refused .noFpa := by
  rcases he with rfl | rfl
  · rw [State.undefinedWord_of_usable (State.usable_one h.1), if_pos ⟨rfl, h.2⟩]
  · exact h.fpaInstruction _

/-- The instructions of coprocessor 1 stand behind one guard. -/
theorem exec_fpa_guarded (s : State) {i : Instr}
    (hi : opField (encode i) = 0x11 ∨ opField (encode i) = 0x31 ∨ opField (encode i) = 0x39) :
    ∃ k, exec i s = s.fpaInstruction k := by
  cases i
  any_goals exact ⟨_, rfl⟩
  all_goals simp [encode] at hi

theorem FpaAbsent.exec {s : State} (h : FpaAbsent s) {i : Instr}
    (hi : opField (encode i) = 0x11 ∨ opField (encode i) = 0x31 ∨ opField (encode i) = 0x39) :
    exec i s = .refused .noFpa := by
  obtain ⟨k, hk⟩ := exec_fpa_guarded s hi
  rw [hk, h.fpaInstruction]

/-! ## The fetch and the bus leave CU1 and the part alone (20_memory.md R99; 71_bus_interface.md R560) -/

theorem FpaAbsent.congr {s t : State} (h : FpaAbsent s) (hchip : t.chip = s.chip)
    (hcu : t.cp0.status.cu = s.cp0.status.cu) : FpaAbsent t := by
  rwa [FpaAbsent, hchip, hcu]

theorem FpaAbsent.access {s t : State} (h : FpaAbsent s) (ht : AccessKeeps s t) : FpaAbsent t := by
  obtain ⟨hchip, -, -, -, -, -, -, -, -, -, -, -, hcp0⟩ := ht
  exact h.congr hchip (by rw [hcp0])

theorem State.fetchMiss_ok {s t : State} {w : WordAddr} {v : Word} (h : s.fetchMiss w = .ok v t) :
    AccessKeeps s t := by
  unfold State.fetchMiss at h
  split at h
  · cases h
  split at h
  · cases h
  split at h <;> cases h <;> exact accessKeeps_refill ..

theorem State.fetchAt_ok {s t : State} {w : WordAddr} {c : Bool} {v : Word}
    (h : s.fetchAt w c = .ok v t) : AccessKeeps s t := by
  unfold State.fetchAt at h
  split at h
  · split at h
    · cases h
    split at h
    · cases h
    unfold State.fetchCached at h
    dsimp only at h
    split at h
    · cases h
      exact accessKeeps_refl s
    · exact accessKeeps_trans (accessKeeps_recordParity s _) (State.fetchMiss_ok h)
  · rw [State.fetchUncached_ok h]
    exact accessKeeps_drain s

theorem FpaAbsent.fetchWord {s t : State} {w : Word} (hs : FpaAbsent s) (h : s.fetchWord = .ok w t) :
    FpaAbsent t := by
  unfold State.fetchWord at h
  cases ha : s.address s.pc .fetch (s.pc.extractLsb' 0 2 == 0) with
  | ok p u =>
    rw [ha] at h
    have hu : FpaAbsent u := by
      rw [State.address_ok ha]
      exact hs.congr rfl rfl
    exact (hu.congr (t := u.noteFetch p.2) rfl rfl).access (State.fetchAt_ok h)
  | exc | never | refused =>
    rw [ha] at h
    cases h

theorem FpaAbsent.busEvent {s : State} (h : FpaAbsent s) (e : BusEvent) : FpaAbsent (s.busEvent e) := by
  unfold State.busEvent
  split
  · exact h
  cases e with
  | write r => cases r <;> exact h.congr (by simp [State.sendWrite]) (by simp [State.sendWrite])
  | dma ds =>
    exact h.congr (foldl_keeps State.chip State.dmaStore (fun _ _ => rfl) ds s)
      (foldl_keeps (fun t => t.cp0.status.cu) State.dmaStore (fun _ _ => rfl) ds s)

theorem FpaAbsent.serveData {s : State} (h : FpaAbsent s) : FpaAbsent s.serveData := by
  unfold State.serveData
  generalize s.env.dataEvents = es
  induction es generalizing s with
  | nil => exact h
  | cons e es ih => exact ih (h.busEvent e)

/-- Whatever a fetched word of coprocessor 1 decodes to, the step is refused. -/
theorem FpaAbsent.step_refused {s t u : State} {w : Word} (h : FpaAbsent t)
    (hissue : s.issue = t.fetchDecode) (hfetch : t.fetchWord = .ok w u)
    (hop : opField w = 0x11 ∨ opField w = 0x31 ∨ opField w = 0x39) : step s = .refused .noFpa := by
  have hu : FpaAbsent u := h.fetchWord hfetch
  cases hd : decode w with
  | ok i =>
    rw [step_of_issue_run (hissue.trans (State.fetchDecode_of_ok hfetch hd))]
    exact hu.serveData.exec (by rwa [← opField_of_decode hd])
  | error e =>
    rw [step_of_issue_done (hissue.trans (State.fetchDecode_of_undefined hfetch hd))]
    exact hu.undefinedWord ((decode_error_of_coprocessor (z := 1) hop hd).imp_right And.right)

/-! ## The obligation -/

/-- Settles O7: each reserved cell of the decoding tables gives its error, each error is what the machine says,
and a part with no FPA refuses every word of coprocessor 1. -/
theorem reservedWords : Obligations.ReservedWords := by
  unfold Obligations.ReservedWords
  refine ⟨fun s t u w e hreset htri hwait hbus hhalt hint hfetch hd => ?_, fun w => decode_reserved,
    fun w hop hf => (decode_special hop).trans (decodeSpecial_reserved hf),
    fun s => ⟨rfl, s.raise_shape .ri⟩, fun w z => decode_undefinedTransfer,
    fun w z => decode_undefinedCoprocessor, fun s w z e hop hz hd => ?_,
    fun s z => State.undefinedWord_of_usable, fun w hop h25 => ?_,
    fun s => State.undefinedWord_fpaTrap,
    fun s w hop hrt => ⟨(decode_bcond hop).trans (decodeBcond_undefined hrt), rfl⟩,
    fun s hcu hfpa =>
      ⟨FpaAbsent.undefinedWord ⟨hcu, hfpa⟩ (.inr rfl), fun i => FpaAbsent.exec ⟨hcu, hfpa⟩⟩,
    fun s t u w hreset htri hwait hbus hhalt hint hfetch hop hcu hfpa =>
      FpaAbsent.step_refused ⟨hcu, hfpa⟩
        (State.issue_eq_fetchDecode hreset htri hwait hbus hhalt hint) hfetch hop⟩
  · exact step_of_issue_done ((State.issue_eq_fetchDecode hreset htri hwait hbus hhalt hint).trans
      (State.fetchDecode_of_undefined hfetch hd))
  · rw [State.undefinedWord_of_unusable hz (decode_error_of_coprocessor hop hd)]
    exact ⟨rfl, s.raise_shape (.cpu z)⟩
  · rw [decode_cop1 hop, decodeCop1_operation h25]
    exact decodeFpaOperation_error_iff

end Sys2Proof.Machine

/-! PROOFS. Exception entry: the exception code, the address records and the sequencing state of every
exception (60_exceptions.md R401, R420 to R425). Statement O23. -/

namespace Sys2Proof.Machine

/-! ## What entry records (60_exceptions.md R401, R424, R425) -/

theorem State.takeException_excCode (s : State) (x : Exc) :
    (s.takeException x).cp0.cause.excCode = x.code := by
  simp [Exc.cause]

section
variable (s : State) {x : Exc} {va : Word}

/-- An address error records the address (60_exceptions.md R424). -/
theorem State.takeException_badVAddr_of_addressError (h : x = .adel va ∨ x = .ades va) :
    (s.takeException x).cp0.badVAddr = va := by
  obtain rfl | rfl := h <;> simp [Exc.badVAddr]

/-- A TLB exception records the address whole in BadVAddr, its page in Context and EntryHi
(60_exceptions.md R425). -/
theorem State.takeException_records_of_tlb {r : Bool}
    (h : x = .tlbl va r ∨ x = .tlbs va r ∨ x = .mod va) :
    (s.takeException x).cp0.badVAddr = va ∧
    (s.takeException x).cp0.context.badVpn = va.extractLsb' 12 19 ∧
    (s.takeException x).cp0.entryHi.vpn = va.extractLsb' 12 20 := by
  obtain rfl | rfl | rfl := h <;> simp [Exc.badVAddr, Exc.context, Exc.entryHi]

/-- The exceptions without an address are the constructors left over (60_exceptions.md R401). -/
theorem State.takeException_keepsAddressRecords
    (h : ∀ va r, x ≠ .adel va ∧ x ≠ .ades va ∧ x ≠ .tlbl va r ∧ x ≠ .tlbs va r ∧ x ≠ .mod va) :
    KeepsAddressRecords s (s.takeException x) := by
  cases x with
  | adel va | ades va | mod va => exact absurd (h va false) (by simp)
  | tlbl va r | tlbs va r => exact absurd (h va r) (by simp)
  | int | ibe | dbe | sys | bp | ri | cpu | ovf =>
    exact ⟨by simp [Exc.badVAddr], by simp [Exc.context], by simp [Exc.entryHi]⟩

end

/-! ## The obligation -/

/-- Settles O23: the shape every exception has, then its code by name, its address records by kind, and the
sequencing state. -/
theorem exceptionEntry : Obligations.ExceptionEntry := by
  unfold Obligations.ExceptionEntry
  intro s x
  have code {y : Exc} (h : x = y) : (s.takeException x).cp0.cause.excCode = y.code :=
    h ▸ s.takeException_excCode x
  exact ⟨s.raise_shape x, s.takeException x, rfl, s.takeException_fcr31 x, s.takeException_fpaHeld x,
    by simp, code, fun _ => code, fun _ _ => code, fun _ _ => code, fun _ => code, fun _ => code,
    code, code, code, code, code, fun _ => code, code,
    fun _ => s.takeException_badVAddr_of_addressError, fun _ _ => s.takeException_records_of_tlb,
    s.takeException_keepsAddressRecords⟩

end Sys2Proof.Machine

/-! PROOFS. Load delays: what an early read of a register or of C gives, and which instructions leave the old
C pending (40_load_store.md R171; 46_fpa_instructions.md R366, R367; 70_reset_and_hazards.md R500, R506).
Statement O15. -/

namespace Sys2Proof.Machine

/-! ## Early reads (40_load_store.md R171; 46_fpa_instructions.md R366, R367) -/

section
variable {s : State} {r q : Reg} {v : Word}

theorem State.readReg_of_pending (h : s.seq.loadPending = some (r, v)) :
    s.readReg r = v ∨ s.readReg r = s.gprValue r := by
  rcases s.readReg_cases r with old | new
  · exact .inr old
  · rw [h] at new
    cases new
    exact .inl rfl

theorem State.readReg_of_pending_other (h : s.seq.loadPending = some (r, v)) (hq : q ≠ r) :
    s.readReg q = s.gprValue q := by
  rcases s.readReg_cases q with old | new
  · exact old
  · rw [h] at new
    cases new
    exact absurd rfl hq

theorem State.readMerged_of_pending (h : s.seq.loadPending = some (r, v)) (hr : r ≠ 0) :
    s.readMerged r = v := by
  rw [State.readMerged, h]
  exact if_pos (by simpa using hr)

theorem State.readMerged_of_pending_other (h : s.seq.loadPending = some (r, v)) (hq : q ≠ r) :
    s.readMerged q = s.gprValue q := by
  simp [State.readMerged, h, hq.symm]

theorem State.readFgr_of_pending (h : s.seq.fpLoadPending = some (r, v)) :
    s.readFgr r = v ∨ s.readFgr r = s.fgrValue r := by
  simp only [State.readFgr, h, if_true]
  split
  · exact .inl rfl
  · exact .inr rfl

theorem State.readFgr_of_pending_other (h : s.seq.fpLoadPending = some (r, v)) (hq : q ≠ r) :
    s.readFgr q = s.fgrValue q := by
  simp [State.readFgr, h, hq.symm]

theorem State.readFgr_of_none (h : s.seq.fpLoadPending = none) (r : Reg) :
    s.readFgr r = s.fgrValue r := by
  simp [State.readFgr, h]

theorem State.fpaCondition_of_pending {old : Bool} (h : s.seq.condPending = some old) :
    s.fpaCondition = old ∨ s.fpaCondition = s.fcr31.c := by
  simp only [State.fpaCondition, h]
  split
  · exact .inr rfl
  · exact .inl rfl

theorem State.fpaCondition_of_none (h : s.seq.condPending = none) : s.fpaCondition = s.fcr31.c := by
  simp [State.fpaCondition, h]

end

/-! ## Which instructions are compares (46_fpa_instructions.md R364) -/

/-- The word of the instruction is a compare's: format S or D of coprocessor 1, function 48 and up. -/
def ComparesFpa (i : Instr) : Prop :=
  opField (encode i) = 0x11 ∧ (rsField (encode i) = 16 ∨ rsField (encode i) = 17) ∧
    48 ≤ (functField (encode i)).toNat

theorem comparesFpa_of_encode {i : Instr} {fmt ft fs : Reg} {funct : BitVec 6}
    (he : encode i = rType 0x11 fmt ft fs 0 funct) (hfmt : fmt = 16 ∨ fmt = 17)
    (hf : 48 ≤ funct.toNat) : ComparesFpa i := by
  rw [ComparesFpa, he, opField_rType, rsField_rType, functField_rType]
  exact ⟨rfl, hfmt, hf⟩

/-! ## The life of the old C (46_fpa_instructions.md R367 b; 70_reset_and_hazards.md R500, R506) -/

/-- No old C is pending, or `i` is a compare or CTC1 to FCR31 that completed, and it is the C from before. -/
def OldConditionEnds (i : Instr) (s t : State) : Prop :=
  t.seq.condPending = none ∨
    t.seq.condPending = some s.fcr31.c ∧ t.pc = s.nextPc ∧ (ComparesFpa i ∨ ∃ rt, i = .ctc1 rt 31)

section
variable {s : State} {i : Instr}

theorem CompletesWith.oldConditionEnds {t : State} {cp0 ctl : Bool} {old : ConfigReg} {n : Nat}
    (h : CompletesWith s none cp0 ctl old n t) : OldConditionEnds i s t := .inl h.condPending

theorem Ends.oldConditionEnds {o : Result} (h : Ends s (CompletesPlainly s) o) :
    Ends s (OldConditionEnds i s) o := h.mono fun _ => CompletesWith.oldConditionEnds

/-- A compare that does not trap leaves the C from before it pending. -/
theorem State.fpaCompare_ends (hi : ComparesFpa i) (even : Bool) (cond : BitVec 4) (r : Relation) :
    Ends s (OldConditionEnds i s) (s.fpaOperation even (s.finishCompare cond r)) := by
  refine .fpaOperation ((s.finishCompare_ends cond r).mono ?_)
  rintro t ⟨c, rfl | rfl, h⟩
  · exact h.oldConditionEnds
  · exact .inr ⟨h.condPending, h.pc, .inl hi⟩

/-- CTC1 to FCR31 leaves the C from before it pending, CTC1 to another register leaves none. -/
theorem execCtc1_oldConditionEnds (rt fs : Reg) :
    Ends s (OldConditionEnds (.ctc1 rt fs) s) (exec (.ctc1 rt fs) s) := by
  refine .fpaInstruction ?_
  split
  next h => exact .next (.inr ⟨rfl, rfl, .inr ⟨rt, by rw [h]⟩⟩)
  split
  · exact .next (completesPlainly_advance false none rfl rfl).oldConditionEnds
  · exact .refused _

/-- MTC0 opens windows of CP0 and of Config, but leaves no old C pending. -/
theorem State.writeCp0_oldConditionEnds (n : Reg) (v : Word) :
    Ends s (OldConditionEnds i s) (s.writeCp0 n v) := by
  have retired (u : State) : Ends s (OldConditionEnds i s) (.next u.retire) := .next (.inl rfl)
  have tlb (f : State → State) : Ends s (OldConditionEnds i s) (s.writeTlbRegister f) :=
    .next (.inl rfl)
  unfold State.writeCp0
  split
  · exact tlb _
  · exact tlb _
  · exact (s.writeConfig_ends v).mono fun _ ⟨_, _, h⟩ => h.oldConditionEnds
  · exact retired _
  · exact tlb _
  · exact .ite (.refused _) (.next (.inl rfl))
  · exact retired _
  · exact retired _

end

/-- TLBP completes plainly or is refused (44_cp0_instructions.md R295). -/
theorem State.probe_ends (s : State) : Ends s (CompletesPlainly s) s.probe := by
  unfold State.probe
  split
  · exact s.retire_ends rfl rfl
  · exact s.retire_ends rfl rfl
  · exact .refused _

/-- What each instruction leaves of the old C, when it completes: every one but the compares and CTC1 ends
plainly. -/
theorem exec_oldConditionEnds (i : Instr) (s : State) : Ends s (OldConditionEnds i s) (exec i s) := by
  have plain {i : Instr} {o : Result} (h : Ends s (CompletesPlainly s) o) :
      Ends s (OldConditionEnds i s) o := h.oldConditionEnds
  have done {u : State} (h1 : u.nextPc = s.nextPc) (h2 : u.seq = s.seq) : CompletesPlainly s u.retire :=
    completesPlainly_advance false none h1 h2
  cases i with
  | ctc1 rt fs => exact execCtc1_oldConditionEnds rt fs
  | mtc0 rt rd => exact .cp0Instruction (State.writeCp0_oldConditionEnds _ _)
  | cFS | cUnS | cEqS | cUeqS | cOltS | cUltS | cOleS | cUleS | cSfS | cNgleS | cSeqS | cNglS | cLtS
  | cNgeS | cLeS | cNgtS =>
    exact State.fpaCompare_ends (comparesFpa_of_encode rfl (.inl rfl) (by decide)) _ _ _
  | cFD | cUnD | cEqD | cUeqD | cOltD | cUltD | cOleD | cUleD | cSfD | cNgleD | cSeqD | cNglD | cLtD
  | cNgeD | cLeD | cNgtD =>
    exact State.fpaCompare_ends (comparesFpa_of_encode rfl (.inr rfl) (by decide)) _ _ _
  | lb | lh | lw | lbu | lhu => exact plain (s.load_ends _ _ _ _ _)
  | lwl | lwr => exact plain (s.loadPartial_ends _ _ _ _)
  | sb | sh | sw => exact plain (s.store_ends _ _ _ _)
  | swl | swr =>
    exact plain ((s.memWriteLanes_alwaysKeeps _ _ _).finish fun _ _ h1 h2 => s.retire_ends h1 h2)
  | addi | add | sub => exact plain (s.resultOrOverflow_ends _ _ _)
  | addiu | slti | sltiu | andi | ori | xori | lui | addu | subu | and | or | xor | nor | slt | sltu
  | sll | srl | sra | sllv | srlv | srav | mfhi | mflo => exact plain (s.result_ends _ _)
  | mult | multu => exact plain (s.setHiLo_ends _ _)
  | div | divu => exact plain (.ite (s.setHiLo_ends _ _) (s.setHiLo_ends _ _))
  | mthi | mtlo => exact plain (.next ((done rfl rfl).congr rfl rfl))
  | j | jr | beq | bne | blez | bgtz | bltz | bgez => exact plain (s.transfer_ends _)
  | jal | jalr | bltzal | bgezal => exact plain (s.transferLink_ends _ _)
  | syscall | brk => exact .raise _ rfl rfl rfl
  | bc0f | bc0t | bc2f | bc2t | bc3f | bc3t => exact plain (s.branchCoprocessor_ends _ _ _)
  | mfc0 => exact plain (.cp0Instruction (.next ((done rfl rfl).deferLoad ..)))
  | tlbr | tlbwi | tlbwr => exact plain (.tlbInstruction (s.retire_ends rfl rfl))
  | tlbp => exact plain (.tlbInstruction s.probe_ends)
  | rfe => exact plain (.cp0Instruction (s.retire_ends rfl rfl))
  | lwc1 =>
    exact plain (.fpaInstruction ((s.memRead_alwaysKeeps _ .word).finish fun _ _ h1 h2 =>
      .next ((done h1 h2).deferFpLoad ..)))
  | swc1 =>
    exact plain (.fpaInstruction ((s.memWrite_alwaysKeeps _ .word _).finish fun _ _ h1 h2 =>
      s.retire_ends h1 h2))
  | mfc1 => exact plain (.fpaInstruction (.next ((done rfl rfl).deferLoad ..)))
  | mtc1 => exact plain (.fpaInstruction (.next ((done rfl rfl).deferFpLoad ..)))
  | cfc1 =>
    exact plain (.fpaInstruction (.ite (.next ((done rfl rfl).deferLoad ..))
      (.ite (.next ((done rfl rfl).deferLoad ..)) (.refused _))))
  | bc1f | bc1t => exact plain (.fpaInstruction (s.transfer_ends _))
  | addS | subS | mulS | divS | absS | negS | movS | cvtSD | cvtSW | cvtWS | cvtWD =>
    exact plain (.fpaOperation (s.finishSingle_ends _ _))
  | addD | subD | mulD | divD | absD | negD | movD | cvtDS | cvtDW =>
    exact plain (.fpaOperation (s.finishDouble_ends _ _))

/-- An old C that is pending after an instruction that has ended comes from a compare or CTC1 to FCR31 that
completed: exception entry leaves none (70_reset_and_hazards.md R500). -/
theorem oldCondition_of_exec {i : Instr} {s t : State} (he : exec i s = .next t) (hw : t.seq.waiting = false)
    (hc : t.seq.condPending ≠ none) :
    t.seq.condPending = some s.fcr31.c ∧ t.pc = s.nextPc ∧ (ComparesFpa i ∨ ∃ rt, i = .ctc1 rt 31) := by
  rcases exec_oldConditionEnds i s t he with ⟨u, x, rfl, -⟩ | ⟨u, rfl, -⟩ | hnone | hold
  · exact absurd (by simp) hc
  · cases hw
  · exact absurd hnone hc
  · exact hold

/-! ## The obligation -/

/-- Settles O15: each early read by its cases, then what the instruction leaves of the old C. -/
theorem loadDelay : Obligations.LoadDelay := by
  unfold Obligations.LoadDelay
  exact ⟨fun s r q v h hr => ⟨State.readReg_of_pending h, State.readMerged_of_pending h hr, fun hq =>
      ⟨State.readReg_of_pending_other h hq, State.readMerged_of_pending_other h hq⟩⟩,
    fun s r q v h => ⟨State.readFgr_of_pending h, State.readFgr_of_pending_other h⟩,
    fun s old => State.fpaCondition_of_pending,
    fun i s t => oldCondition_of_exec,
    fun s r => ⟨fun h => State.readReg_of_none h r, fun h => State.readFgr_of_none h r,
      State.fpaCondition_of_none⟩⟩

end Sys2Proof.Machine

/-! PROOFS. The ALU and shift instructions: the value each hands to `State.result`, in the words of arithmetic
(41_computational.md R190 to R216). Statements O28, O29 and O30. -/

namespace Sys2Proof.Machine

/-! ## Immediates and comparisons (41_computational.md R190, R198, R204, R205) -/

section
variable (a b v : Word) (imm : BitVec 16) (n : Nat)

theorem toInt_sext16 : (sext16 imm).toInt = imm.toInt := BitVec.toInt_signExtend_of_le (by decide)

/-- The immediate above sixteen zeros (41_computational.md R198). -/
theorem append_zeros_eq_shiftLeft : (imm ++ 0#16 : Word) = imm.setWidth 32 <<< 16 :=
  calc (imm ++ 0#16 : Word) = (imm ++ 0#16).setWidth 32 := (BitVec.setWidth_eq _).symm
    _ = imm.setWidth 32 <<< 16 ||| (0#16).setWidth 32 := BitVec.setWidth_append_eq_shiftLeft_setWidth_or
    _ = imm.setWidth 32 <<< 16 := BitVec.or_zero

theorem boolWord_decide (p : Prop) [Decidable p] : boolWord (decide p) = if p then 1 else 0 :=
  if_congr decide_eq_true_iff rfl rfl

theorem boolWord_lessSigned : boolWord (lessSigned a b) = if a.toInt < b.toInt then 1 else 0 := by
  rw [lessSigned, BitVec.slt_eq_decide, boolWord_decide]

theorem boolWord_lessUnsigned : boolWord (lessUnsigned a b) = if a.toNat < b.toNat then 1 else 0 := by
  rw [lessUnsigned, BitVec.ult_eq_decide, boolWord_decide]

/-! ## Shifts as arithmetic (41_computational.md R211 to R213; 30_encoding.md R147) -/

theorem shiftLeft_eq_mul : shiftLeft v n = BitVec.ofNat 32 (v.toNat * 2 ^ n) := by
  apply BitVec.eq_of_toNat_eq
  rw [shiftLeft, BitVec.toNat_shiftLeft, BitVec.toNat_ofNat, Nat.shiftLeft_eq]

theorem shiftRight_eq_div : shiftRight v n = BitVec.ofNat 32 (v.toNat / 2 ^ n) := by
  apply BitVec.eq_of_toNat_eq
  have hlt : v.toNat / 2 ^ n < 2 ^ 32 := (Nat.div_le_self _ _).trans_lt v.isLt
  rw [shiftRight, BitVec.toNat_ushiftRight, Nat.shiftRight_eq_div_pow, BitVec.toNat_ofNat,
    Nat.mod_eq_of_lt hlt]

/-- A sign-filling shift divides and rounds down (41_computational.md R213). -/
theorem shiftRightArith_eq_fdiv : shiftRightArith v n = BitVec.ofInt 32 (v.toInt.fdiv (2 ^ n)) := by
  rw [shiftRightArith, BitVec.sshiftRight_eq, Int.shiftRight_eq_div_pow,
    Int.fdiv_eq_ediv_of_nonneg _ (by positivity), Nat.cast_pow, Nat.cast_ofNat]

theorem shiftCount_eq_mod : shiftCount v = v.toNat % 32 := by
  rw [shiftCount, BitVec.extractLsb'_toNat, Nat.shiftRight_zero]

end

/-! ## The obligations -/

/-- Settles O28: each is one `State.result`; the comparisons and LUI need their value in the spec's words. -/
theorem aluImmediateResults : Obligations.AluImmediateResults := by
  unfold Obligations.AluImmediateResults
  intro s rs rt imm
  rw [← toInt_sext16, ← boolWord_lessSigned, ← boolWord_lessUnsigned, ← append_zeros_eq_shiftLeft]
  exact ⟨s.result_shape .., s.result_shape .., s.result_shape .., s.result_shape .., s.result_shape ..,
    s.result_shape .., s.result_shape ..⟩

/-- Settles O29: each is one `State.result`; SLT and SLTU compare as integers. -/
theorem aluRegisterResults : Obligations.AluRegisterResults := by
  unfold Obligations.AluRegisterResults
  intro s rs rt rd
  rw [← boolWord_lessSigned, ← boolWord_lessUnsigned]
  exact ⟨s.result_shape .., s.result_shape .., s.result_shape .., s.result_shape .., s.result_shape ..,
    s.result_shape .., s.result_shape .., s.result_shape ..⟩

/-- Settles O30: each is one `State.result` of a shift, which is a product or a quotient by a power of two. -/
theorem shiftResults : Obligations.ShiftResults := by
  unfold Obligations.ShiftResults
  intro s rs rt rd shamt
  rw [← shiftCount_eq_mod]
  simp only [← shiftLeft_eq_mul, ← shiftRight_eq_div, ← shiftRightArith_eq_fdiv]
  exact ⟨s.result_shape .., s.result_shape .., s.result_shape .., s.result_shape .., s.result_shape ..,
    s.result_shape ..⟩

end Sys2Proof.Machine

/-! PROOFS. Arithmetic that traps on overflow: R199's sign bits against the range of the exact result
(41_computational.md R199). Statement O31. -/

namespace Sys2Proof.Machine

/-! ## The sign-bit conditions (41_computational.md R199) -/

/-- An exact result that a signed word can hold. -/
def FitsWord (x : Int) : Prop := -(2 ^ 31) ≤ x ∧ x < 2 ^ 31

section
variable (a b : Word)

theorem addOverflows_iff : addOverflows a b = true ↔ ¬ FitsWord (a.toInt + b.toInt) := by
  have hlib : addOverflows a b = a.saddOverflow b := (BitVec.saddOverflow_eq a b).symm
  rw [hlib, BitVec.saddOverflow, FitsWord, Bool.or_eq_true, decide_eq_true_iff, decide_eq_true_iff]
  omega

theorem subOverflows_iff : subOverflows a b = true ↔ ¬ FitsWord (a.toInt - b.toInt) := by
  have hlib : subOverflows a b = a.ssubOverflow b := by
    rw [subOverflows, BitVec.ssubOverflow_eq]
    cases a.msb <;> cases b.msb <;> simp
  rw [hlib, BitVec.ssubOverflow, FitsWord, Bool.or_eq_true, decide_eq_true_iff, decide_eq_true_iff]
  omega

theorem addOverflows_eq_true_iff : addOverflows a b = true ↔ a.msb = b.msb ∧ (a + b).msb ≠ a.msb := by
  rw [addOverflows, Bool.and_eq_true, beq_iff_eq, bne_iff_ne]

theorem subOverflows_eq_true_iff : subOverflows a b = true ↔ a.msb ≠ b.msb ∧ (a - b).msb = b.msb := by
  rw [subOverflows, Bool.and_eq_true, bne_iff_ne, beq_iff_eq]

theorem ofInt_add_toInt : BitVec.ofInt 32 (a.toInt + b.toInt) = a + b := by
  rw [BitVec.ofInt_add, BitVec.ofInt_toInt, BitVec.ofInt_toInt]

theorem ofInt_sub_toInt : BitVec.ofInt 32 (a.toInt - b.toInt) = a - b := by
  rw [Int.sub_eq_add_neg, BitVec.ofInt_add, BitVec.ofInt_neg, BitVec.ofInt_toInt, BitVec.ofInt_toInt,
    BitVec.sub_eq_add_neg]

end

/-! ## The two ends of a trapping operation (41_computational.md R199; 60_exceptions.md R400, R410) -/

theorem keepsFpa_takeException (s : State) (x : Exc) : KeepsFpa s (s.takeException x) :=
  ⟨s.takeException_fcr31 x, s.takeException_fpaHeld x, s.takeException_fgrValue x⟩

/-- What an operation that traps on overflow does, for the exact result `x`. -/
def OverflowResult (s : State) (r : Reg) (x : Int) (o : Result) : Prop :=
  (FitsWord x → RegisterResult s r (BitVec.ofInt 32 x) o) ∧
  (¬ FitsWord x → EntersException s .ovf o ∧
    ∃ t, o = .next t ∧ KeepsAddressRecords s t ∧ KeepsFpa s t)

theorem State.resultOrOverflow_shape (s : State) (r : Reg) {overflow : Bool} {x : Int}
    (ho : overflow = true ↔ ¬ FitsWord x) :
    OverflowResult s r x (s.resultOrOverflow overflow r (BitVec.ofInt 32 x)) := by
  constructor
  · intro hfits
    have hno : ¬ overflow = true := fun h => ho.mp h hfits
    rw [State.resultOrOverflow, if_neg hno]
    exact s.result_shape ..
  · intro hover
    rw [State.resultOrOverflow, if_pos (ho.mpr hover)]
    exact ⟨s.raise_shape .ovf, _, rfl, s.takeException_keepsAddressRecords (by simp),
      keepsFpa_takeException s .ovf⟩

theorem exec_add_overflowResult (s : State) (rs rt rd : Reg) :
    OverflowResult s rd ((s.readReg rs).toInt + (s.readReg rt).toInt) (exec (.add rs rt rd) s) := by
  have h := s.resultOrOverflow_shape rd (addOverflows_iff (s.readReg rs) (s.readReg rt))
  rw [ofInt_add_toInt] at h
  exact h

theorem exec_addi_overflowResult (s : State) (rs rt : Reg) (imm : BitVec 16) :
    OverflowResult s rt ((s.readReg rs).toInt + imm.toInt) (exec (.addi rs rt imm) s) := by
  have h := s.resultOrOverflow_shape rt (addOverflows_iff (s.readReg rs) (sext16 imm))
  rw [ofInt_add_toInt, toInt_sext16] at h
  exact h

theorem exec_sub_overflowResult (s : State) (rs rt rd : Reg) :
    OverflowResult s rd ((s.readReg rs).toInt - (s.readReg rt).toInt) (exec (.sub rs rt rd) s) := by
  have h := s.resultOrOverflow_shape rd (subOverflows_iff (s.readReg rs) (s.readReg rt))
  rw [ofInt_sub_toInt] at h
  exact h

/-! ## The obligation -/

/-- Settles O31: the three instructions end as their exact result says, and R199's conditions are the model's
tests. -/
theorem overflowingArithmetic : Obligations.OverflowingArithmetic := by
  unfold Obligations.OverflowingArithmetic
  constructor
  · intro s rs rt rd imm
    obtain ⟨addFits, addOver⟩ := exec_add_overflowResult s rs rt rd
    obtain ⟨addiFits, addiOver⟩ := exec_addi_overflowResult s rs rt imm
    obtain ⟨subFits, subOver⟩ := exec_sub_overflowResult s rs rt rd
    exact ⟨addFits, addiFits, subFits, addOver, addiOver, subOver⟩
  · intro a b
    exact ⟨(addOverflows_eq_true_iff a b).symm.trans (addOverflows_iff a b),
      (subOverflows_eq_true_iff a b).symm.trans (subOverflows_iff a b)⟩

end Sys2Proof.Machine

/-! PROOFS. Multiply, divide and the HI/LO moves: exact products, and the quotient and remainder that the
division equation determines (41_computational.md R225 to R235). Statements O32 and O33. -/

namespace Sys2Proof.Machine

section
variable (a b : Word)

/-! ## Products (41_computational.md R226, R227) -/

theorem toInt_productSigned : (productSigned a b).toInt = a.toInt * b.toInt := by
  have hlow : -2 ^ (32 * 2 - 2) ≤ a.toInt * b.toInt := BitVec.le_toInt_mul_toInt
  have hhigh : a.toInt * b.toInt ≤ 2 ^ (32 * 2 - 2) := BitVec.toInt_mul_toInt_le
  exact BitVec.toInt_ofInt_eq_self (by decide) (by omega) (by omega)

theorem toNat_productUnsigned : (productUnsigned a b).toNat = a.toNat * b.toNat := by
  have hlt : a.toNat * b.toNat < 2 ^ 64 :=
    calc a.toNat * b.toNat < 2 ^ 32 * 2 ^ 32 := Nat.mul_lt_mul'' a.isLt b.isLt
      _ = 2 ^ 64 := rfl
  rw [productUnsigned, BitVec.toNat_ofNat, Nat.mod_eq_of_lt hlt]

/-! ## Quotients and remainders (41_computational.md R228, R229) -/

variable {a b}

theorem divisionOpen_eq_false (hb : b.toInt ≠ 0) (hopen : ¬ (a.toInt = -(2 ^ 31) ∧ b.toInt = -1)) :
    divisionOpen a b = false := by
  rw [← Bool.not_eq_true, divisionOpen, Bool.or_eq_true, Bool.and_eq_true, beq_iff_eq, beq_iff_eq,
    beq_iff_eq]
  rintro (rfl | ⟨rfl, rfl⟩)
  · exact hb rfl
  · exact hopen ⟨rfl, rfl⟩

/-- Truncated division is the one whose remainder is smaller than the divisor and has the sign of the
dividend. -/
theorem tdiv_tmod_of_sign {x y q r : Int} (hy : y ≠ 0) (h : x = q * y + r) (hr : r.natAbs < y.natAbs)
    (hpos : 0 ≤ x → 0 ≤ r) (hneg : x ≤ 0 → r ≤ 0) : x.tdiv y = q ∧ x.tmod y = r := by
  have heq : r + y * q = x := by rw [h, Int.mul_comm, Int.add_comm]
  rcases Int.le_total 0 x with hx | hx
  · exact (Int.tdiv_tmod_unique hx hy).mpr ⟨heq, hpos hx, by omega⟩
  · exact (Int.tdiv_tmod_unique' hx hy).mpr ⟨heq, by omega, hneg hx⟩

theorem udiv_umod_of_eq {q r : Nat} (h : a.toNat = q * b.toNat + r) (hr : r < b.toNat) :
    a / b = BitVec.ofNat 32 q ∧ a % b = BitVec.ofNat 32 r := by
  have heq : r + b.toNat * q = a.toNat := by rw [h, Nat.mul_comm, Nat.add_comm]
  obtain ⟨hq, hm⟩ := (Nat.div_mod_unique (Nat.zero_lt_of_lt hr)).mpr ⟨heq, hr⟩
  rw [← hq, ← hm, ← BitVec.toNat_udiv, ← BitVec.toNat_umod, BitVec.ofNat_toNat, BitVec.ofNat_toNat,
    BitVec.setWidth_eq, BitVec.setWidth_eq]
  exact ⟨rfl, rfl⟩

end

/-! ## The two divisions (41_computational.md R228, R229, R235) -/

section
variable {s : State} {rs rt : Reg}

theorem exec_div_of_sign {q r : Int} (hb : (s.readReg rt).toInt ≠ 0)
    (hopen : ¬ ((s.readReg rs).toInt = -(2 ^ 31) ∧ (s.readReg rt).toInt = -1))
    (h : (s.readReg rs).toInt = q * (s.readReg rt).toInt + r)
    (hr : r.natAbs < (s.readReg rt).toInt.natAbs) (hpos : 0 ≤ (s.readReg rs).toInt → 0 ≤ r)
    (hneg : (s.readReg rs).toInt ≤ 0 → r ≤ 0) :
    exec (.div rs rt) s = s.setHiLo (BitVec.ofInt 32 r) (BitVec.ofInt 32 q) := by
  obtain ⟨hq, hm⟩ := tdiv_tmod_of_sign hb h hr hpos hneg
  have hdefined : ¬ divisionOpen (s.readReg rs) (s.readReg rt) = true :=
    Bool.not_eq_true _ ▸ divisionOpen_eq_false hb hopen
  calc exec (.div rs rt) s
      = s.setHiLo (remainderSigned (s.readReg rs) (s.readReg rt))
          (quotientSigned (s.readReg rs) (s.readReg rt)) := if_neg hdefined
    _ = s.setHiLo (BitVec.ofInt 32 r) (BitVec.ofInt 32 q) := by
        rw [remainderSigned, quotientSigned, hq, hm]

theorem exec_divu_of_eq {q r : Nat} (h : (s.readReg rs).toNat = q * (s.readReg rt).toNat + r)
    (hr : r < (s.readReg rt).toNat) :
    exec (.divu rs rt) s = s.setHiLo (BitVec.ofNat 32 r) (BitVec.ofNat 32 q) := by
  obtain ⟨hq, hm⟩ := udiv_umod_of_eq h hr
  have hb : s.readReg rt ≠ 0 := fun h0 => by simp [h0] at hr
  calc exec (.divu rs rt) s
      = s.setHiLo (s.readReg rs % s.readReg rt) (s.readReg rs / s.readReg rt) := if_neg hb
    _ = s.setHiLo (BitVec.ofNat 32 r) (BitVec.ofNat 32 q) := by rw [hq, hm]

end

/-- Either branch of a division sets HI and LO (41_computational.md R235). -/
theorem State.ite_setHiLo_shape (s : State) {c : Prop} [Decidable c] (hi lo hi' lo' : Word) :
    ∃ h l, HiLoResult s h l (if c then s.setHiLo hi lo else s.setHiLo hi' lo') := by
  split
  · exact ⟨hi, lo, s.setHiLo_shape hi lo⟩
  · exact ⟨hi', lo', s.setHiLo_shape hi' lo'⟩

/-! ## The moves to HI and LO (41_computational.md R231, R233) -/

/-- MTHI is `setHiLo` with LO as it stands. -/
theorem exec_mthi_eq (s : State) (rs : Reg) : exec (.mthi rs) s = s.setHiLo (s.readReg rs) s.lo := by
  have hlo : s.lo = (s.retire.withHi (s.readReg rs)).lo := by simp
  rw [State.setHiLo, hlo]
  rfl

/-- MTLO is `setHiLo` with HI as it stands. -/
theorem exec_mtlo_eq (s : State) (rs : Reg) : exec (.mtlo rs) s = s.setHiLo s.hi (s.readReg rs) := by
  have hhi : s.hi = s.retire.hi := by simp
  rw [State.setHiLo, hhi]
  rfl

/-! ## The obligations -/

/-- Settles O32: HI and LO are the halves of the exact product; a move to one of them leaves the other. -/
theorem multiplyAndHiLoResults : Obligations.MultiplyAndHiLoResults := by
  unfold Obligations.MultiplyAndHiLoResults
  intro s rs rt rd
  refine ⟨⟨_, _, s.setHiLo_shape _ _, ?_⟩, ⟨_, _, s.setHiLo_shape _ _, ?_⟩, s.result_shape rd s.hi,
    s.result_shape rd s.lo, exec_mthi_eq s rs ▸ s.setHiLo_shape _ _, exec_mtlo_eq s rs ▸ s.setHiLo_shape _ _⟩
  · rw [BitVec.extractLsb'_append_extractLsb', toInt_productSigned]
  · rw [BitVec.extractLsb'_append_extractLsb', toNat_productUnsigned]

/-- Settles O33: the division equation determines quotient and remainder, and an open case sets HI and LO
too. -/
theorem divideResults : Obligations.DivideResults := by
  unfold Obligations.DivideResults
  intro s rs rt
  refine ⟨fun q r hb hopen h hr hpos hneg => ?_, fun q r h hr => ?_, s.ite_setHiLo_shape ..,
    s.ite_setHiLo_shape ..⟩
  · rw [exec_div_of_sign hb hopen h hr hpos hneg]
    exact s.setHiLo_shape _ _
  · rw [exec_divu_of_eq h hr]
    exact s.setHiLo_shape _ _

end Sys2Proof.Machine

/-! PROOFS. Sample words: each is the encoding of its instruction, and decoding undoes encoding
(30_encoding.md R155). Statement O6. -/

namespace Sys2Proof

theorem decode_of_encode_eq {i : Instr} {w : Word} (h : encode i = w) : decode w = .ok i :=
  h ▸ decodeEncodeRoundTrip i

/-- Settles O6: each word is what `encode` makes of its instruction. -/
theorem decodeSampleWords : Obligations.DecodeSampleWords := by
  unfold Obligations.DecodeSampleWords
  and_intros <;> exact decode_of_encode_eq rfl

end Sys2Proof

/-! PROOFS. Branches: the target, the eight conditions as comparisons with integers, and what a branch leaves;
jumps and branches in a delay slot (42_jump_branch.md R240, R246 to R258). Statements O35 and O37. -/

namespace Sys2Proof.Machine

/-! ## The target and the conditions (42_jump_branch.md R246 to R253, R258) -/

/-- The sign-extended field with two zeros is four times the signed offset (30_encoding.md R145). -/
theorem branchTarget_eq (pc : Word) (offset : BitVec 16) :
    branchTarget pc offset = pc + 4 + BitVec.ofInt 32 (4 * offset.toInt) := by
  have hfield : (offset ++ 0#2).toInt = 4 * offset.toInt := by
    rw [BitVec.toInt_append]
    simp
  rw [branchTarget, BitVec.signExtend, hfield]

theorem msb_iff_toInt_neg (a : Word) : a.msb = true ↔ a.toInt < 0 := by
  rw [BitVec.msb_eq_toInt, decide_eq_true_iff]

theorem not_msb_iff_toInt_nonneg (a : Word) : (!a.msb) = true ↔ 0 ≤ a.toInt := by
  rw [Bool.not_eq_true', ← Bool.not_eq_true, msb_iff_toInt_neg, Int.not_lt]

theorem lessEqualZero_iff (a : Word) : lessEqualZero a = true ↔ a.toInt ≤ 0 := by
  have hzero : a = 0 ↔ a.toInt = 0 := BitVec.toInt_inj.symm
  rw [lessEqualZero, Bool.or_eq_true, msb_iff_toInt_neg, beq_iff_eq, hzero, ← le_iff_lt_or_eq]

theorem not_lessEqualZero_iff (a : Word) : (!lessEqualZero a) = true ↔ 0 < a.toInt := by
  rw [Bool.not_eq_true', ← Bool.not_eq_true, lessEqualZero_iff, Int.not_le]

/-! ## A branch outside a delay slot (42_jump_branch.md R240, R255) -/

section
variable {s : State} {taken : Bool} {p : Prop} [Decidable p]

theorem State.branchTo_of_iff (hp : taken = true ↔ p) (offset : BitVec 16) :
    s.branchTo taken offset = if p then some (s.pc + 4 + BitVec.ofInt 32 (4 * offset.toInt)) else none := by
  rw [State.branchTo, branchTarget_eq]
  exact if_congr hp rfl rfl

theorem State.transfer_branchTo_shape (h : s.seq.inDelaySlot = false) (hp : taken = true ↔ p)
    (offset : BitVec 16) :
    TransferResult s (if p then some (s.pc + 4 + BitVec.ofInt 32 (4 * offset.toInt)) else none)
      s.readMerged (s.transfer (s.branchTo taken offset)) :=
  State.branchTo_of_iff hp offset ▸ s.transfer_shape _ h

/-- The link is written whether or not the branch is taken; r31 is not r0 (42_jump_branch.md R251, R252). -/
theorem State.transferLink_branchTo_shape (h : s.seq.inDelaySlot = false) (hp : taken = true ↔ p)
    (offset : BitVec 16) :
    TransferResult s (if p then some (s.pc + 4 + BitVec.ofInt 32 (4 * offset.toInt)) else none)
      (fun r => if r = 31 then s.pc + 8 else s.readMerged r)
      (s.transferLink 31 (s.branchTo taken offset)) := by
  have hlink (r : Reg) : (r = 31 ∧ r ≠ 0) ↔ r = 31 := and_iff_left_of_imp (by rintro rfl; decide)
  have hshape := s.transferLink_shape 31 (s.branchTo taken offset) h
  simpa only [hlink, State.branchTo_of_iff hp] using hshape

end

/-! ## In a delay slot (42_jump_branch.md R254; D7) -/

section
variable {s : State} (h : s.seq.inDelaySlot = true)
include h

theorem State.transfer_refused (target : Option Word) : s.transfer target = .refused .branchInDelaySlot :=
  if_pos h

theorem State.transferLink_refused (link : Reg) (target : Option Word) :
    s.transferLink link target = .refused .branchInDelaySlot :=
  if_pos h

/-- A usable coprocessor leaves the delay slot to decide (43_special_coprocessor.md R270). -/
theorem State.branchCoprocessor_refused {z : BitVec 2} (hz : s.usable z = true) (taken : Bool)
    (offset : BitVec 16) : s.branchCoprocessor z taken offset = .refused .branchInDelaySlot :=
  (if_pos hz).trans (State.transfer_refused h _)

/-- A ready FPA leaves the delay slot to decide (46_fpa_instructions.md R340, R366). -/
theorem State.fpaInstruction_transfer_refused (hf : FpaReady s) (target : Option Word) :
    s.fpaInstruction (s.transfer target) = .refused .branchInDelaySlot :=
  (State.fpaInstruction_of_ready hf _).trans (State.transfer_refused h target)

end

/-! ## The obligations -/

/-- Settles O35: each is a transfer to `branchTo` of its condition, with or without a link. -/
theorem branchResults : Obligations.BranchResults := by
  unfold Obligations.BranchResults
  intro s rs rt offset h
  exact ⟨
    State.transfer_branchTo_shape h beq_iff_eq offset,
    State.transfer_branchTo_shape h bne_iff_ne offset,
    State.transfer_branchTo_shape h (lessEqualZero_iff _) offset,
    State.transfer_branchTo_shape h (not_lessEqualZero_iff _) offset,
    State.transfer_branchTo_shape h (msb_iff_toInt_neg _) offset,
    State.transfer_branchTo_shape h (not_msb_iff_toInt_nonneg _) offset,
    State.transferLink_branchTo_shape h (msb_iff_toInt_neg _) offset,
    State.transferLink_branchTo_shape h (not_msb_iff_toInt_nonneg _) offset⟩

/-- Settles O37: each is a transfer, a transfer with a link, or a transfer behind the test of its
coprocessor. -/
theorem transferInDelaySlotRefused : Obligations.TransferInDelaySlotRefused := by
  unfold Obligations.TransferInDelaySlotRefused
  intro s rs rt rd target offset h
  have plain := State.transfer_refused h
  have link := State.transferLink_refused h
  rintro i (rfl | rfl | rfl | rfl | rfl | rfl | rfl | rfl | rfl | rfl | rfl | rfl | ⟨hz, hi⟩ | ⟨hf, hi⟩ |
    ⟨hz, hi⟩ | ⟨hz, hi⟩)
  -- J, JAL, JR, JALR
  · exact plain _
  · exact link ..
  · exact plain _
  · exact link ..
  -- BEQ, BNE, BLEZ, BGTZ, BLTZ, BGEZ, BLTZAL, BGEZAL
  iterate 6 · exact plain _
  iterate 2 · exact link ..
  -- the branches on the conditions of coprocessors 0 to 3
  · rcases hi with rfl | rfl <;> exact State.branchCoprocessor_refused h hz _ offset
  · rcases hi with rfl | rfl <;> exact State.fpaInstruction_transfer_refused h hf _
  · rcases hi with rfl | rfl <;> exact State.branchCoprocessor_refused h hz _ offset
  · rcases hi with rfl | rfl <;> exact State.branchCoprocessor_refused h hz _ offset

end Sys2Proof.Machine

/-! PROOFS. The condition inputs: what goes on after a data access still has the sampled pins, so every
instruction that completes or takes an exception latches them; the branches that test them and FCR31.C
(43_special_coprocessor.md R270, R272; 46_fpa_instructions.md R366; D16). Statement O36. -/

namespace Sys2Proof.Machine

/-! ## Data accesses leave the sampled inputs (20_memory.md R96, R97) -/

/-- An access that answers a value or an exception does so with the inputs sampled in `s`. -/
inductive AnswersWithEnv {α : Type} (s : State) : Access α → Prop
  | ok {u : State} (a : α) (h : u.env = s.env) : AnswersWithEnv s (.ok a u)
  | exc {u : State} (x : Exc) (h : u.env = s.env) : AnswersWithEnv s (.exc x u)
  | never (u : State) : AnswersWithEnv s (.never u)
  | refused (r : Refusal) : AnswersWithEnv s (.refused r)

theorem AnswersWithEnv.of_env {α : Type} {s u : State} {m : Access α} (h : AnswersWithEnv u m)
    (hu : u.env = s.env) : AnswersWithEnv s m := by
  cases h with
  | ok a h => exact .ok a (h.trans hu)
  | exc x h => exact .exc x (h.trans hu)
  | never u => exact .never u
  | refused r => exact .refused r

theorem AnswersWithEnv.bind {α β : Type} {s : State} {m : Access α} {k : α → State → Access β}
    (h : AnswersWithEnv s m) (hk : ∀ a u, AnswersWithEnv u (k a u)) : AnswersWithEnv s (m.bind k) := by
  cases h with
  | ok a h => exact (hk a _).of_env h
  | exc x h => exact .exc x h
  | never u => exact .never u
  | refused r => exact .refused r

section
variable (s : State)

theorem State.address_answersWithEnv (va : Word) (k : AccessKind) (b : Bool) :
    AnswersWithEnv s (s.address va k b) := by
  cases h : s.address va k b with
  | ok p u => exact .ok p (State.env_address h)
  | exc x u => exact .exc x (congrArg State.env (State.address_exc h))
  | never u => exact .never u
  | refused r => exact .refused r

theorem State.readUncached_answersWithEnv (w : WordAddr) : AnswersWithEnv s (s.readUncached w) := by
  unfold State.readUncached
  split
  · exact .never _
  split
  · exact .never _
  · exact .exc _ rfl
  · exact .ok _ rfl
  · exact .ok _ rfl

theorem State.readMiss_answersWithEnv (w : WordAddr) : AnswersWithEnv s (s.readMiss w) := by
  unfold State.readMiss
  split
  · exact .never _
  split
  · exact .never _
  · exact .exc _ (State.env_refillFailed ..)
  · exact .ok _ (State.env_refill ..)
  · exact .ok _ (State.env_refill ..)

theorem State.loadWord_answersWithEnv (w : WordAddr) (c : Bool) : AnswersWithEnv s (s.loadWord w c) := by
  unfold State.loadWord
  split
  · exact .ok _ rfl
  · split
    · exact .refused _
    · unfold State.loadCached
      dsimp only
      split
      · exact .ok _ rfl
      · exact (State.readMiss_answersWithEnv _ w).of_env rfl
  · exact .refused _
  · exact s.readUncached_answersWithEnv w

theorem State.postStore_answersWithEnv (e : PendingStore) : AnswersWithEnv s (s.postStore e) := by
  unfold State.postStore
  split
  · exact .never _
  · exact .ok _ (State.post_env ..)

theorem State.storeIsolated_env (w : WordAddr) (l : Lanes) (v : Word) :
    (s.storeIsolated w l v).env = s.env := by
  unfold State.storeIsolated
  split
  · exact State.fillWord_env ..
  · exact State.invalidateWord_env ..

theorem State.storeCache_env (w : WordAddr) (l : Lanes) (v : Word) :
    (s.storeCache w l v).env = s.env := by
  unfold State.storeCache
  dsimp only
  split
  · exact State.fillWord_env ..
  split
  · exact State.fillWord_env ..
  · exact State.recordParity_env ..

theorem State.storeWord_answersWithEnv (w : WordAddr) (c : Bool) (l : Lanes) (v : Word) :
    AnswersWithEnv s (s.storeWord w c l v) := by
  unfold State.storeWord
  split
  · exact .ok _ (s.storeIsolated_env w l v)
  · split
    · exact .refused _
    · exact (State.postStore_answersWithEnv _ _).of_env (s.storeCache_env w l v)
  · exact .refused _
  · exact s.postStore_answersWithEnv _

theorem State.memRead_answersWithEnv (va : Word) (n : Width) : AnswersWithEnv s (s.memRead va n) :=
  (s.address_answersWithEnv va .load _).bind fun _ t =>
    (t.loadWord_answersWithEnv _ _).bind fun _ _ => .ok _ rfl

theorem State.memReadLanes_answersWithEnv (va : Word) : AnswersWithEnv s (s.memReadLanes va) :=
  (s.address_answersWithEnv va .load _).bind fun _ t => t.loadWord_answersWithEnv _ _

theorem State.memWrite_answersWithEnv (va : Word) (n : Width) (v : Word) :
    AnswersWithEnv s (s.memWrite va n v) :=
  (s.address_answersWithEnv va .store _).bind fun _ t => t.storeWord_answersWithEnv _ _ _ _

theorem State.memWriteLanes_answersWithEnv (va : Word) (l : Lanes) (v : Word) :
    AnswersWithEnv s (s.memWriteLanes va l v) :=
  (s.address_answersWithEnv va .store _).bind fun _ t => t.storeWord_answersWithEnv _ _ _ _

end

/-! ## What latches the pins (43_special_coprocessor.md R270; D16) -/

section
variable {s t u : State}

theorem capturesConditions_advance (h : u.env = s.env) (b : Bool) (target : Option Word) :
    CapturesConditions s (u.advance b target) := by
  simp [CapturesConditions, h]

theorem capturesConditions_takeException (h : u.env = s.env) (x : Exc) :
    CapturesConditions s (u.takeException x) := by
  simp [CapturesConditions, h]

theorem CapturesConditions.congr (h : CapturesConditions s t) (hq : u.seq = t.seq) :
    CapturesConditions s u := by
  rwa [CapturesConditions, hq]

theorem CapturesConditions.deferLoad (h : CapturesConditions s t) (r : Reg) (v : Word) :
    CapturesConditions s (t.deferLoad r v) := by
  unfold State.deferLoad
  split
  · exact h
  · exact h

theorem CapturesConditions.deferFpLoad (h : CapturesConditions s t) (r : Reg) (v : Word) :
    CapturesConditions s (t.deferFpLoad r v) := h

end

/-- Every next state of an outcome that does not wait for the bus holds the pins sampled in `s`. -/
def Captures (s : State) (o : Result) : Prop :=
  ∀ t, o = .next t → t.seq.waiting = false → CapturesConditions s t

namespace Captures

variable {s : State}

theorem refused (r : Refusal) : Captures s (.refused r) := by
  intro t e
  cases e

theorem next {t : State} (h : CapturesConditions s t) : Captures s (.next t) := by
  intro t' e _
  cases e
  exact h

theorem raise {u : State} (h : u.env = s.env) (x : Exc) : Captures s (u.raise x) :=
  .next (capturesConditions_takeException h x)

theorem ite {c : Prop} [Decidable c] {o p : Result} (h : Captures s o) (g : Captures s p) :
    Captures s (if c then o else p) := by split; exacts [h, g]

/-- The access answers with the sampled pins, or the instruction waits. -/
theorem finish {α : Type} {m : Access α} {k : α → State → Result} (h : AnswersWithEnv s m)
    (hk : ∀ a u, u.env = s.env → Captures s (k a u)) : Captures s (m.finish k) := by
  cases h with
  | ok a h => exact hk a _ h
  | exc x h => exact .raise h x
  | never u =>
    intro t e hw
    cases e
    cases hw
  | refused r => exact .refused r

theorem retire {u : State} (h : u.env = s.env) : Captures s (.next u.retire) :=
  .next (capturesConditions_advance h false none)

theorem fpTrap (e : FpExceptions) : Captures s (s.fpTrap e) :=
  have recorded : (s.recordFp e).env = s.env := rfl
  .ite (.raise recorded .int) (.retire recorded)

end Captures

/-- An instruction of any shape latches the pins. -/
theorem ExecShape.captures {s : State} {o : Result} (h : ExecShape s o) : Captures s o := by
  have done {u : State} (hu : u.env = s.env) (b : Bool) (target : Option Word) :
      CapturesConditions s (u.advance b target) := capturesConditions_advance hu b target
  induction h with
  | refused r => exact .refused r
  | raise x => exact .raise rfl x
  | ite _ _ h g => exact .ite h g
  | register r v => exact .next ((done rfl false none).congr (by simp))
  | hi v => exact .next (done rfl false none)
  | lo v => exact .next (done rfl false none)
  | hiLo h l => exact .next (done rfl false none)
  | transfer target => exact .next (done rfl true target)
  | link target r v => exact .next ((done rfl true target).congr (by simp))
  | deferred r v => exact .next ((done rfl false none).deferLoad r v)
  | deferredFp r v => exact .next ((done rfl false none).deferFpLoad r v)
  | load va n r f =>
    exact .finish (s.memRead_answersWithEnv va n) fun _ _ h => .next ((done h false none).deferLoad ..)
  | loadLanes va r f =>
    exact .finish (s.memReadLanes_answersWithEnv va) fun _ _ h => .next ((done h false none).deferLoad ..)
  | loadFp va r =>
    exact .finish (s.memRead_answersWithEnv va .word) fun _ _ h => .next ((done h false none).deferFpLoad ..)
  | store va n v => exact .finish (s.memWrite_answersWithEnv va n v) fun _ _ h => .retire h
  | storeLanes va l v => exact .finish (s.memWriteLanes_answersWithEnv va l v) fun _ _ h => .retire h
  | index v => exact .retire rfl
  | tlbRead h l => exact .retire rfl
  | tlbWrite i e => exact .retire rfl
  | returnFromException => exact .retire rfl
  | fpa o write hw =>
    refine .ite (.fpTrap _) (.next ?_)
    obtain ⟨f, hf⟩ := hw (s.recordFp (settleExceptions false s.fcr31.enables o.exceptions)).retire
    rw [hf]
    exact done (u := s.recordFp (settleExceptions false s.fcr31.enables o.exceptions)) rfl false none
  | compare cond r =>
    refine .ite (.fpTrap _) (.next ?_)
    exact done (u := (s.recordFp (compareExceptions cond r)).withFcr31
      { s.fcr31.record (compareExceptions cond r) with c := conditionHolds cond r }) rfl false none

/-- CTC1 completes with the old C pending, which is no condition input (46_fpa_instructions.md R367 b). -/
theorem exec_ctc1_captures (rt fs : Reg) (s : State) : Captures s (exec (.ctc1 rt fs) s) := by
  refine .ite (.raise rfl _) (.ite (.refused _) (.ite (.next ?_) (.ite (.retire rfl) (.refused _))))
  exact capturesConditions_advance (u := s.loadFcr31 (fcr31OfWord (s.readReg rt))) rfl false none

section
variable (s : State) (v : Word)

theorem State.writeTlbRegister_captures {f : State → State} (hf : (f s).env = s.env) :
    Captures s (s.writeTlbRegister f) := by
  have hu : (if s.chip.hasTlb then f s else s).env = s.env := by split; exacts [hf, rfl]
  exact .next (capturesConditions_advance hu false none)

theorem State.afterAcChange_env (b : Bool) : (s.afterAcChange b).env = s.env := by
  unfold State.afterAcChange
  split <;> rfl

theorem State.writeConfig_captures : Captures s (s.writeConfig v) :=
  .ite (.retire rfl) (.ite (.refused _) (.next (capturesConditions_advance
    (u := (s.afterAcChange _).withConfig (configOfWord v)) (s.afterAcChange_env _) false none)))

theorem State.writeStatus_captures : Captures s (s.writeStatus v) :=
  .ite (.refused _) (.next (capturesConditions_advance
    (u := s.withStatus (statusOfWrite s.cp0.status v)) rfl false none))

/-- MTC0 opens windows at most once it has completed (44_cp0_instructions.md R290). -/
theorem State.writeCp0_captures (n : Reg) : Captures s (s.writeCp0 n v) := by
  unfold State.writeCp0
  split
  · exact s.writeTlbRegister_captures rfl
  · exact s.writeTlbRegister_captures rfl
  · exact s.writeConfig_captures v
  · exact .retire rfl
  · exact s.writeTlbRegister_captures rfl
  · exact s.writeStatus_captures v
  · exact .retire rfl
  · exact .retire rfl

end

/-- Every instruction that completes or takes an exception latches the pins sampled in its step
(43_special_coprocessor.md R270; D16). -/
theorem exec_captures (i : Instr) (s : State) : Captures s (exec i s) := by
  by_cases hm : ∃ rt rd, i = .mtc0 rt rd
  · obtain ⟨rt, rd, rfl⟩ := hm
    exact .ite (s.writeCp0_captures _ rd) (.raise rfl _)
  by_cases hc : ∃ rt fs, i = .ctc1 rt fs
  · obtain ⟨rt, fs, rfl⟩ := hc
    exact exec_ctc1_captures rt fs s
  · exact (exec_shape i s (fun rt rd e => hm ⟨rt, rd, e⟩) fun rt fs e => hc ⟨rt, fs, e⟩).captures

/-! ## The branches (43_special_coprocessor.md R270, R272; 46_fpa_instructions.md R366) -/

/-- What a branch on the falsehood of `c` and a branch on its truth come to. -/
def ConditionBranches (s : State) (c : Bool) (offset : BitVec 16) (onFalse onTrue : Result) : Prop :=
  TransferResult s (if c = false then some (s.pc + 4 + BitVec.ofInt 32 (4 * offset.toInt)) else none)
    s.readMerged onFalse ∧
  TransferResult s (if c = true then some (s.pc + 4 + BitVec.ofInt 32 (4 * offset.toInt)) else none)
    s.readMerged onTrue

section
variable {s : State} (h : s.seq.inDelaySlot = false) (c : Bool) (offset : BitVec 16)
include h

theorem State.transfer_conditionBranches : ConditionBranches s c offset
    (s.transfer (s.branchTo (!c) offset)) (s.transfer (s.branchTo c offset)) :=
  ⟨State.transfer_branchTo_shape h (iff_of_eq (Bool.not_eq_true' c)) offset,
    State.transfer_branchTo_shape h Iff.rfl offset⟩

theorem State.branchCoprocessor_conditionBranches {z : BitVec 2} (hz : s.usable z = true) :
    ConditionBranches s c offset (s.branchCoprocessor z (!c) offset) (s.branchCoprocessor z c offset) := by
  have usable (taken : Bool) :
      s.branchCoprocessor z taken offset = s.transfer (s.branchTo taken offset) := if_pos hz
  rw [usable, usable]
  exact State.transfer_conditionBranches h c offset

theorem State.fpaInstruction_conditionBranches (hf : FpaReady s) : ConditionBranches s c offset
    (s.fpaInstruction (s.transfer (s.branchTo (!c) offset)))
    (s.fpaInstruction (s.transfer (s.branchTo c offset))) := by
  rw [State.fpaInstruction_of_ready hf, State.fpaInstruction_of_ready hf]
  exact State.transfer_conditionBranches h c offset

end

/-! ## The obligation -/

/-- Settles O36: every instruction latches the pins, and each pair of branches tests its condition behind
the test of its coprocessor. -/
theorem coprocessorBranchResults : Obligations.CoprocessorBranchResults := by
  unfold Obligations.CoprocessorBranchResults
  exact ⟨fun i s => exec_captures i s, fun s offset h => ⟨
    State.branchCoprocessor_conditionBranches h s.seq.condLatch0 offset,
    State.fpaInstruction_conditionBranches h s.fpaCondition offset,
    State.branchCoprocessor_conditionBranches h s.seq.condLatch2 offset,
    State.branchCoprocessor_conditionBranches h s.seq.condLatch3 offset⟩⟩

end Sys2Proof.Machine

/-! PROOFS. SYSCALL, BREAK and the instructions of an unusable coprocessor: each raises an exception that
carries no address (43_special_coprocessor.md R260 to R263; 60_exceptions.md R412). Statements O38 and O39. -/

namespace Sys2Proof.Machine

/-! ## Exceptions without an address (60_exceptions.md R401, R426) -/

/-- What an exception that carries no address comes to. -/
def RaisesOnly (s : State) (x : Exc) (o : Result) : Prop :=
  EntersException s x o ∧ ∃ t, o = .next t ∧ KeepsAddressRecords s t ∧ KeepsFpa s t

theorem State.raise_only (s : State) {x : Exc}
    (h : ∀ va r, x ≠ .adel va ∧ x ≠ .ades va ∧ x ≠ .tlbl va r ∧ x ≠ .tlbs va r ∧ x ≠ .mod va) :
    RaisesOnly s x (s.raise x) :=
  ⟨s.raise_shape x, _, rfl, s.takeException_keepsAddressRecords h, keepsFpa_takeException s x⟩

/-! ## The guards of the coprocessor instructions (43_special_coprocessor.md R263) -/

/-- The instructions of coprocessor 0 stand behind one guard (44_cp0_instructions.md R296). -/
theorem exec_cop0_guarded (s : State) {i : Instr} (hi : opField (encode i) = 0x10) :
    ∃ k, exec i s = s.cp0Instruction k := by
  cases i with
  | mfc0 | mtc0 | tlbr | tlbwi | tlbwr | tlbp | rfe | bc0f | bc0t => exact ⟨_, rfl⟩
  | _ => simp [encode] at hi

theorem decodeBranchCond_ok {z : BitVec 2} {onFalse onTrue : BitVec 16 → Instr} {w : Word} {i : Instr}
    (h : decodeBranchCond z onFalse onTrue w = .ok i) :
    ∃ offset, i = onFalse offset ∨ i = onTrue offset := by
  unfold decodeBranchCond at h
  split at h <;> cases h
  · exact ⟨_, .inl rfl⟩
  · exact ⟨_, .inr rfl⟩

/-- The instructions of coprocessors 2 and 3 are their two branches (30_encoding.md R160 g). -/
theorem branch_of_decode_cop23 {z : BitVec 2} {onFalse onTrue : BitVec 16 → Instr} {i : Instr}
    (h : decode (encode i) = decodeCop23 z onFalse onTrue (encode i)) :
    ∃ offset, i = onFalse offset ∨ i = onTrue offset :=
  decodeBranchCond_ok (decodeCop23_ok (h.symm.trans (decodeEncodeRoundTrip i))).2

section
variable {s : State}

theorem State.cp0Instruction_of_unusable (h : s.usable 0 = false) (k : Result) :
    s.cp0Instruction k = s.raise (.cpu 0) := if_neg (Bool.eq_false_iff.mp h)

theorem State.branchCoprocessor_of_unusable {z : BitVec 2} (h : s.usable z = false) (taken : Bool)
    (offset : BitVec 16) : s.branchCoprocessor z taken offset = s.raise (.cpu z) :=
  if_neg (Bool.eq_false_iff.mp h)

/-- Whatever the instruction, its guard fails first (43_special_coprocessor.md R263). -/
theorem exec_of_unusable {i : Instr} {z : BitVec 2}
    (hi : opField (encode i) = (0b0100#4) ++ z ∨
      (z = 1 ∧ (opField (encode i) = 0x31 ∨ opField (encode i) = 0x39)))
    (h : s.usable z = false) : exec i s = s.raise (.cpu z) := by
  rcases hi with hop | ⟨rfl, hop⟩
  · match z with
    | 0 =>
      obtain ⟨k, hk⟩ := exec_cop0_guarded s hop
      rw [hk, State.cp0Instruction_of_unusable h]
    | 1 =>
      obtain ⟨k, hk⟩ := exec_fpa_guarded s (.inl hop)
      rw [hk, State.fpaInstruction_of_unusable h]
    | 2 =>
      obtain ⟨offset, rfl | rfl⟩ := branch_of_decode_cop23 (decode_cop2 hop)
      · exact State.branchCoprocessor_of_unusable h _ offset
      · exact State.branchCoprocessor_of_unusable h _ offset
    | 3 =>
      obtain ⟨offset, rfl | rfl⟩ := branch_of_decode_cop23 (decode_cop3 hop)
      · exact State.branchCoprocessor_of_unusable h _ offset
      · exact State.branchCoprocessor_of_unusable h _ offset
  · obtain ⟨k, hk⟩ := exec_fpa_guarded s (.inr hop)
    rw [hk, State.fpaInstruction_of_unusable h]

end

/-! ## Usability as Status reads (10_state.md R37; 60_exceptions.md R412) -/

/-- Status[31:28] are the CU bits. -/
theorem statusWord_cu (x : StatusReg) (z : BitVec 2) :
    (statusWord x).getLsbD (28 + z.toNat) = x.cu.getLsbD z.toNat := by
  simp only [statusWord, BitVec.getLsbD_append]
  match z with
  | 0 | 1 | 2 | 3 => simp

/-- Status[1] is KUc. -/
theorem statusWord_kuc (x : StatusReg) : (statusWord x).getLsbD 1 = x.kuc := by
  simp only [statusWord, BitVec.getLsbD_append]
  simp [bit]

theorem State.usable_iff (s : State) (z : BitVec 2) : s.usable z = true ↔
    (s.cp0.status.cu.getLsbD z.toNat = true ∨ (z = 0 ∧ s.cp0.status.kuc = false)) := by
  rw [State.usable, Bool.or_eq_true, Bool.and_eq_true, beq_iff_eq, Bool.not_eq_true']

/-! ## The obligations -/

/-- Settles O38: each raises its exception whatever the state and the code field. -/
theorem systemCallAndBreak : Obligations.SystemCallAndBreak := by
  unfold Obligations.SystemCallAndBreak
  intro s code
  obtain ⟨sysEnters, sysKeeps⟩ : RaisesOnly s .sys (exec (.syscall code) s) := s.raise_only (by simp)
  obtain ⟨bpEnters, bpKeeps⟩ : RaisesOnly s .bp (exec (.brk code) s) := s.raise_only (by simp)
  exact ⟨sysEnters, sysKeeps, bpEnters, bpKeeps⟩

/-- Settles O39: the guard of the coprocessor raises CpU before anything else is looked at. -/
theorem coprocessorUnusable : Obligations.CoprocessorUnusable := by
  unfold Obligations.CoprocessorUnusable
  refine ⟨fun s i z hi hz => ?_, fun s z => ?_⟩
  · rw [exec_of_unusable hi hz]
    exact s.raise_only (by simp)
  · rw [statusWord_cu, statusWord_kuc, State.usable_iff]

end Sys2Proof.Machine

/-! PROOFS. RFE: the KU/IE pop read off the Status word, and the frame (44_cp0_instructions.md R297). Statement
O27. -/

namespace Sys2Proof.Machine

/-! ## The KU/IE pop in the Status word (60_exceptions.md R460) -/

section
variable (x : StatusReg)

/-- The current pair takes the previous one, and the previous pair the old one. -/
theorem statusWord_pop_low : (statusWord x.pop).extractLsb' 0 4 = (statusWord x).extractLsb' 2 4 := by
  apply BitVec.eq_of_getLsbD_eq
  intro i hi
  simp only [statusWord, StatusReg.pop, BitVec.getLsbD_extractLsb', BitVec.getLsbD_append, getLsbD_bit]
  interval_cases i <;> simp

/-- The bits below 4 are the last four fields of the layout, and the pop changes no other field. -/
theorem statusWord_pop_high : (statusWord x.pop).extractLsb' 4 28 = (statusWord x).extractLsb' 4 28 := by
  simp only [statusWord, StatusReg.pop, BitVec.extractLsb'_append_eq_of_le,
    Nat.reduceLeDiff, Nat.reduceSub]

end

/-! ## RFE (44_cp0_instructions.md R296, R297) -/

theorem exec_rfe {s : State} (h : Cp0Ready s) : exec .rfe s = .next s.returnFromException.retire :=
  State.cp0Instruction_of_ready h _

/-- RFE completes with Status popped; of the rest of CP0 Random alone may change (10_state.md R33). -/
theorem State.returnFromException_shape (s : State) :
    SystemResult s (fun t => t.cp0.status = s.cp0.status.pop ∧
      t.cp0 = { s.cp0 with random := t.cp0.random, status := t.cp0.status } ∧ t.tlb = s.tlb ∧
      KeepsCaches s t) (.next s.returnFromException.retire) :=
  systemResult_of_retire (u := s.returnFromException) rfl rfl
    ⟨by simp, by simp, State.advance_tlb .., keepsCaches_advance ..⟩

/-! ## The obligation -/

/-- Settles O27: RFE pops Status and keeps the rest, and the pop moves only Status bits 3:0. -/
theorem returnFromException : Obligations.ReturnFromException := by
  unfold Obligations.ReturnFromException
  intro s hs
  rw [exec_rfe hs]
  refine s.returnFromException_shape.imp ?_
  rintro t ⟨hstatus, hkeeps⟩
  exact ⟨by rw [hstatus, statusWord_pop_low], by rw [hstatus, statusWord_pop_high], hkeeps⟩

end Sys2Proof.Machine

/-! PROOFS. The compares of the FPA: which word is which compare, the end of each, and the relation of two
operands as a comparison of rationals (45_fpa_formats.md R324 to R326; 46_fpa_instructions.md R364). Statement
O57. -/

namespace Sys2Proof.Machine

/-! ## A compare of even and of odd registers (46_fpa_instructions.md R343, R364; D21) -/

section
variable {s : State} {ft fs : Reg} (h : FpaReady s)
include h

theorem State.fpaOperation_of_even (hft : ft.getLsbD 0 = false) (hfs : fs.getLsbD 0 = false) (k : Result) :
    s.fpaOperation (evenFpr ft && evenFpr fs) k = k := by
  rw [State.fpaOperation, State.fpaInstruction_of_ready h, evenFpr, evenFpr, hft, hfs]
  rfl

theorem State.fpaOperation_of_odd (ho : ft.getLsbD 0 = true ∨ fs.getLsbD 0 = true) (k : Result) :
    s.fpaOperation (evenFpr ft && evenFpr fs) k = .refused .oddFpr := by
  rw [State.fpaOperation, State.fpaInstruction_of_ready h]
  rcases ho with ho | ho <;> simp [evenFpr, ho]

theorem State.compareSingle_shape (hft : ft.getLsbD 0 = false) (hfs : fs.getLsbD 0 = false)
    (cond : BitVec 4) :
    FpCompareResult s cond (relation (single.value (s.readSingle fs)) (single.value (s.readSingle ft)))
      (s.compareSingle cond fs ft) := by
  rw [State.compareSingle, State.fpaOperation_of_even h hft hfs]
  exact s.finishCompare_shape cond _

theorem State.compareDouble_shape (hft : ft.getLsbD 0 = false) (hfs : fs.getLsbD 0 = false)
    (cond : BitVec 4) :
    FpCompareResult s cond (relation (double.value (s.readDouble fs)) (double.value (s.readDouble ft)))
      (s.compareDouble cond fs ft) := by
  rw [State.compareDouble, State.fpaOperation_of_even h hft hfs]
  exact s.finishCompare_shape cond _

end

/-! ## The words of the compares (46_fpa_instructions.md R364) -/

section
variable {w : Word} {i : Instr} (hf : 48 ≤ (functField w).toNat)
include hf

/-- With fmt S the functions from 48 on are the compares, the condition in bits 3:0. -/
theorem exec_of_decodeFpaSingle (h : decodeFpaSingle w = .ok i) (s : State) :
    exec i s = s.compareSingle ((functField w).extractLsb' 0 4) (rdField w) (rtField w) := by
  unfold decodeFpaSingle at h
  generalize functField w = f at hf h
  split at h
  case h_1 | h_2 | h_3 | h_4 | h_5 | h_6 | h_7 | h_8 | h_9 => exact absurd hf (by decide)
  all_goals cases h
  all_goals rfl

/-- The same with fmt D. -/
theorem exec_of_decodeFpaDouble (h : decodeFpaDouble w = .ok i) (s : State) :
    exec i s = s.compareDouble ((functField w).extractLsb' 0 4) (rdField w) (rtField w) := by
  unfold decodeFpaDouble at h
  generalize functField w = f at hf h
  split at h
  case h_1 | h_2 | h_3 | h_4 | h_5 | h_6 | h_7 | h_8 | h_9 => exact absurd hf (by decide)
  all_goals cases h
  all_goals rfl

end

/-- A compare of an odd register is refused (D21). -/
theorem exec_compare_of_odd {s : State} (h : FpaReady s) {i : Instr} (hi : ComparesFpa i)
    (ho : (rtField (encode i)).getLsbD 0 = true ∨ (rdField (encode i)).getLsbD 0 = true) :
    exec i s = .refused .oddFpr := by
  obtain ⟨hop, hfmt, hf⟩ := hi
  have hdec := decodeEncodeRoundTrip i
  rcases hfmt with hfmt | hfmt
  · rw [decode_fpa_single hop hfmt] at hdec
    exact (exec_of_decodeFpaSingle hf hdec s).trans (State.fpaOperation_of_odd h ho _)
  · rw [decode_fpa_double hop hfmt] at hdec
    exact (exec_of_decodeFpaDouble hf hdec s).trans (State.fpaOperation_of_odd h ho _)

/-! ## The relation of two operands (45_fpa_formats.md R324, R326) -/

theorem FpValue.toRat_eq_of_isNumber {a : FpValue} (h : a.isNumber = true) :
    a.toRat = a.signedMant * 2 ^ a.power := by
  cases a with
  | nan | inf => cases h
  | zero => simp [FpValue.toRat, FpValue.signedMant]
  | finite neg d m e => cases neg <;> simp [FpValue.toRat, FpValue.signedMant, FpValue.power]

/-- A number counted in units of a power of two not above its own. -/
theorem FpValue.toRat_eq_scaled {a : FpValue} (h : a.isNumber = true) {e : Int} (he : e ≤ a.power) :
    a.toRat = ((a.signedMant * 2 ^ (a.power - e).toNat : Int) : ℚ) * 2 ^ e := by
  have hp : (2 : ℚ) ^ a.power = 2 ^ (a.power - e).toNat * 2 ^ e := by
    rw [← zpow_natCast, ← zpow_add₀ two_ne_zero, Int.toNat_sub_of_le he, sub_add_cancel]
  rw [FpValue.toRat_eq_of_isNumber h, hp]
  push_cast
  ring

/-- Counting both numbers in one positive unit keeps their order. -/
theorem relationOf_eq (a b : Int) {u : ℚ} (hu : 0 < u) :
    relationOf a b = if (a : ℚ) * u < b * u then .less else if (a : ℚ) * u = b * u then .equal
      else .greater := by
  simp only [relationOf, mul_lt_mul_iff_left₀ hu, mul_left_inj' hu.ne', Int.cast_lt, Int.cast_inj]

theorem relation_eq_relationOf {a b : FpValue} (ha : a.isNumber = true) (hb : b.isNumber = true) :
    relation a b = relationOf (a.signedMant * 2 ^ (a.power - min a.power b.power).toNat)
      (b.signedMant * 2 ^ (b.power - min a.power b.power).toNat) := by
  cases a with
  | nan | inf => cases ha
  | zero | finite =>
    cases b with
    | nan | inf => cases hb
    | zero | finite => rfl

/-- Numbers compare by value, so that the zeros are equal. -/
theorem relation_of_isNumber {a b : FpValue} (ha : a.isNumber = true) (hb : b.isNumber = true) :
    relation a b = if a.toRat < b.toRat then .less else if a.toRat = b.toRat then .equal
      else .greater := by
  rw [relation_eq_relationOf ha hb, FpValue.toRat_eq_scaled ha (min_le_left _ _),
    FpValue.toRat_eq_scaled hb (min_le_right _ _)]
  exact relationOf_eq _ _ (by positivity)

theorem relation_of_isNan {a b : FpValue} (h : a.isNan = true ∨ b.isNan = true) :
    relation a b = .unordered := by
  rcases h with h | h
  · cases a with
    | nan => cases b <;> rfl
    | inf | zero | finite => cases h
  · cases b with
    | nan => cases a <;> rfl
    | inf | zero | finite => cases h

/-- An infinity is beyond every number and below or above the other infinity. -/
theorem relation_inf_left (n : Bool) {b : FpValue} (hb : b.isNan = false) :
    relation (.inf n) b = if b = .inf n then .equal else if n then .less else .greater := by
  cases b with
  | nan => cases hb
  | inf m => cases n <;> cases m <;> rfl
  | zero | finite => simp [relation]

theorem relation_inf_right (n : Bool) {a : FpValue} (ha : a.isNan = false) :
    relation a (.inf n) = if a = .inf n then .equal else if n then .greater else .less := by
  cases a with
  | nan => cases ha
  | inf m => cases n <;> cases m <;> rfl
  | zero | finite => simp [relation]

/-! ## The condition and V (45_fpa_formats.md R325; 46_fpa_instructions.md R364) -/

theorem conditionHolds_iff (c : BitVec 4) (r : Relation) :
    conditionHolds c r = true ↔ (r = .less ∧ c.getLsbD 2 = true) ∨
      (r = .equal ∧ c.getLsbD 1 = true) ∨ (r = .unordered ∧ c.getLsbD 0 = true) := by
  cases r <;> simp [conditionHolds]

theorem compareExceptions_eq (c : BitVec 4) (r : Relation) :
    compareExceptions c r = if r = .unordered ∧ c.getLsbD 3 = true then 0x10 else 0 := by
  simp [compareExceptions, fpV, fpNone]

/-! ## The obligation -/

/-- Settles O57: each compare is the compare of its format under its condition, even registers go to the
compare's end and odd ones are refused; then the relation by the classes of the operands. -/
theorem fpaCompareResults : Obligations.FpaCompareResults := by
  unfold Obligations.FpaCompareResults
  refine ⟨fun s ft fs h hft hfs => ?_, fun s ft fs i h ho hop hfmt hf hrt hrd => ?_,
    fun a b => ⟨relation_of_isNan, relation_of_isNumber, ?_, ?_⟩,
    fun c r => ⟨conditionHolds_iff c r, compareExceptions_eq c r⟩⟩
  · have single (cond) := State.compareSingle_shape h hft hfs cond
    have double (cond) := State.compareDouble_shape h hft hfs cond
    exact ⟨single 0x0, double 0x0, single 0x1, double 0x1, single 0x2, double 0x2, single 0x3, double 0x3,
      single 0x4, double 0x4, single 0x5, double 0x5, single 0x6, double 0x6, single 0x7, double 0x7,
      single 0x8, double 0x8, single 0x9, double 0x9, single 0xa, double 0xa, single 0xb, double 0xb,
      single 0xc, double 0xc, single 0xd, double 0xd, single 0xe, double 0xe, single 0xf, double 0xf⟩
  · subst hrt hrd
    exact exec_compare_of_odd h ⟨hop, hfmt, hf⟩ ho
  · rintro n rfl hb
    exact relation_inf_left n hb
  · rintro n rfl ha
    exact relation_inf_right n ha

end Sys2Proof.Machine

/-! PROOFS. Rounding: a magnitude truncated to the precision, the two representable neighbours it lies
between, and which of them each mode takes (45_fpa_formats.md R321). Statement O59. -/

namespace Sys2Proof.Machine

/-! ## The exponent of a fraction -/

/-- A power of two as the quotient of two natural ones, as `floorLog2` and `roundMagnitude` scale. -/
theorem zpow_eq_toNat_div (k : Int) : (2 : ℚ) ^ k = 2 ^ k.toNat / 2 ^ (-k).toNat := by
  rw [← zpow_natCast, ← zpow_natCast, ← zpow_sub₀ two_ne_zero, Int.toNat_sub_toNat_neg]

section
variable {num den : Nat} (hd : 0 < den)
include hd

/-- The test of `floorLog2`, as a comparison of rationals. -/
theorem shifted_le_iff (k : Int) :
    den * 2 ^ k.toNat ≤ num * 2 ^ (-k).toNat ↔ (2 : ℚ) ^ k ≤ num / den := by
  rw [zpow_eq_toNat_div, div_le_div_iff₀ (by positivity) (by positivity), mul_comm den]
  exact_mod_cast Iff.rfl

variable (hn : 0 < num)
include hn

/-- The lengths of numerator and denominator give the exponent up to one. -/
theorem log2_sub_bounds :
    (2 : ℚ) ^ ((num.log2 : Int) - den.log2 - 1) ≤ num / den ∧
      (num : ℚ) / den < 2 ^ ((num.log2 : Int) - den.log2 + 1) := by
  have hnl : (2 : ℚ) ^ num.log2 ≤ num := by exact_mod_cast Nat.log2_self_le hn.ne'
  have hnu : (num : ℚ) < 2 ^ (num.log2 + 1) := by exact_mod_cast Nat.lt_log2_self
  have hdl : (2 : ℚ) ^ den.log2 ≤ den := by exact_mod_cast Nat.log2_self_le hd.ne'
  have hdu : (den : ℚ) < 2 ^ (den.log2 + 1) := by exact_mod_cast Nat.lt_log2_self
  have hd' : (0 : ℚ) < den := by exact_mod_cast hd
  constructor
  · calc (2 : ℚ) ^ ((num.log2 : Int) - den.log2 - 1) = 2 ^ num.log2 / 2 ^ (den.log2 + 1) := by
          rw [← zpow_natCast, ← zpow_natCast, ← zpow_sub₀ two_ne_zero, Nat.cast_succ, sub_sub]
      _ ≤ num / den := by gcongr
  · calc (num : ℚ) / den < 2 ^ (num.log2 + 1) / 2 ^ den.log2 := by gcongr
      _ = 2 ^ ((num.log2 : Int) - den.log2 + 1) := by
          rw [← zpow_natCast, ← zpow_natCast, ← zpow_sub₀ two_ne_zero, Nat.cast_succ,
            sub_add_eq_add_sub]

theorem floorLog2_bounds :
    (2 : ℚ) ^ floorLog2 num den ≤ num / den ∧ (num : ℚ) / den < 2 ^ (floorLog2 num den + 1) := by
  obtain ⟨hl, hu⟩ := log2_sub_bounds hd hn
  unfold floorLog2
  simp only [shifted_le_iff hd]
  split
  next h => exact ⟨h, hu⟩
  next h => exact ⟨hl, by rwa [sub_add_cancel, ← not_le]⟩

end

/-! ## The truncated magnitude -/

/-- The magnitude `x` is `q` units `2 ^ c` and `r / d` of one more, where `q` has `prec` bits. -/
structure Truncates (prec : Nat) (x : ℚ) (c : Int) (q r d : Nat) : Prop where
  rem_lt : r < d
  le_quot : 2 ^ (prec - 1) ≤ q
  quot_lt : q < 2 ^ prec
  value : x = (q + r / d) * 2 ^ c

/-- What `roundMagnitude` divides is the magnitude in units of the last place. -/
theorem scaled_div (num den : Nat) (sh : Int) :
    ((num * 2 ^ sh.toNat : Nat) : ℚ) / (den * 2 ^ (-sh).toNat : Nat) = num / den * 2 ^ sh := by
  rw [zpow_eq_toNat_div]
  push_cast
  rw [mul_div_mul_comm]

theorem cast_div_add_mod (n : Nat) {d : Nat} (hd : 0 < d) :
    ((n / d : Nat) : ℚ) + (n % d : Nat) / d = n / d := by
  have hd' : (d : ℚ) ≠ 0 := by exact_mod_cast hd.ne'
  rw [add_div' _ _ _ hd']
  congr 1
  exact_mod_cast Nat.div_add_mod' n d

theorem truncates_floorLog2 {prec num den n d : Nat} {sh : Int} (hp : 1 ≤ prec) (hn : 0 < num)
    (hd : 0 < den) (hsh : sh = (prec : Int) - 1 - floorLog2 num den) (hn' : n = num * 2 ^ sh.toNat)
    (hd' : d = den * 2 ^ (-sh).toNat) :
    Truncates prec (num / den) (floorLog2 num den - (prec - 1)) (n / d) (n % d) d := by
  have hpos : 0 < d := by rw [hd']; positivity
  have hposq : (0 : ℚ) < d := by exact_mod_cast hpos
  have hx : (n : ℚ) / d = num / den * 2 ^ sh := by rw [hn', hd', scaled_div]
  obtain ⟨hl, hu⟩ := floorLog2_bounds hd hn
  refine ⟨Nat.mod_lt _ hpos, ?_, ?_, ?_⟩
  · rw [Nat.le_div_iff_mul_le hpos]
    have : (2 : ℚ) ^ (prec - 1) ≤ n / d := by
      calc (2 : ℚ) ^ (prec - 1) = 2 ^ floorLog2 num den * 2 ^ sh := by
            rw [← zpow_add₀ two_ne_zero, hsh, ← zpow_natCast]
            congr 1
            omega
        _ ≤ n / d := by rw [hx]; gcongr
    rw [le_div_iff₀ hposq] at this
    exact_mod_cast this
  · rw [Nat.div_lt_iff_lt_mul hpos]
    have : (n : ℚ) / d < 2 ^ prec := by
      calc (n : ℚ) / d < 2 ^ (floorLog2 num den + 1) * 2 ^ sh := by rw [hx]; gcongr
        _ = 2 ^ prec := by
            rw [← zpow_add₀ two_ne_zero, hsh, ← zpow_natCast]
            congr 1
            omega
    rw [div_lt_iff₀ hposq] at this
    exact_mod_cast this
  · rw [cast_div_add_mod n hpos, hx, mul_assoc, ← zpow_add₀ two_ne_zero, hsh]
    norm_num

/-! ## The neighbours of the magnitude -/

namespace Truncates

variable {prec : Nat} {x : ℚ} {c : Int} {q r d : Nat} (h : Truncates prec x c q r d)
include h

theorem den_pos : (0 : ℚ) < d := by exact_mod_cast (Nat.zero_le r).trans_lt h.rem_lt

/-- The distance above the lower neighbour, in `d`ths of a unit. -/
theorem sub_lower : d * (x - q * 2 ^ c) = r * 2 ^ c := by
  have := h.den_pos
  rw [h.value]
  field_simp
  ring

theorem lower_le : q * 2 ^ c ≤ x := by
  rw [h.value]
  gcongr
  exact le_add_of_nonneg_right (by positivity)

theorem lt_upper : x < q * 2 ^ c + 2 ^ c := by
  have hr : (r : ℚ) < d := by exact_mod_cast h.rem_lt
  rw [h.value, ← add_one_mul]
  gcongr
  rwa [div_lt_one h.den_pos]

theorem rem_eq_zero_iff : r = 0 ↔ q * 2 ^ c = x := by
  have := h.den_pos
  rw [h.value, mul_left_inj' (by positivity), left_eq_add, div_eq_zero_iff,
    or_iff_left this.ne', Nat.cast_eq_zero]

/-- Twice the remainder against the divisor is the magnitude against the middle of its neighbours. -/
theorem two_mul_rem_lt_iff : 2 * r < d ↔ 2 * (x - q * 2 ^ c) < 2 ^ c := by
  have hu : (0 : ℚ) < 2 ^ c := by positivity
  rw [← mul_lt_mul_iff_right₀ h.den_pos, mul_left_comm, h.sub_lower, ← mul_assoc,
    mul_lt_mul_iff_left₀ hu]
  exact_mod_cast Iff.rfl

theorem two_mul_rem_eq_iff : 2 * r = d ↔ 2 * (x - q * 2 ^ c) = 2 ^ c := by
  have hu : (2 : ℚ) ^ c ≠ 0 := by positivity
  rw [← mul_right_inj' h.den_pos.ne', mul_left_comm, h.sub_lower, ← mul_assoc, mul_left_inj' hu]
  exact_mod_cast Iff.rfl

/-- No number of at most `prec` bits lies between the neighbours. -/
theorem le_lower_or_upper_le {k : Nat} (hk : k < 2 ^ prec) (e : Int) :
    (k : ℚ) * 2 ^ e ≤ q * 2 ^ c ∨ q * 2 ^ c + 2 ^ c ≤ (k : ℚ) * 2 ^ e := by
  rw [← add_one_mul]
  rcases le_or_gt c e with hce | hce
  · obtain ⟨n, rfl⟩ := Int.le.dest hce
    have hunits : (k : ℚ) * 2 ^ (c + n) = (k * 2 ^ n : Nat) * 2 ^ c := by
      rw [zpow_add₀ two_ne_zero, zpow_natCast]
      push_cast
      ring
    rw [hunits]
    rcases Nat.lt_or_ge q (k * 2 ^ n) with hq | hq
    · right; gcongr; exact_mod_cast hq
    · left; gcongr
  · left
    have hpow : (2 : Nat) ^ prec ≤ 2 ^ (prec - 1) * 2 := by
      rw [← pow_succ]
      exact Nat.pow_le_pow_right two_pos (by omega)
    have hkq : (k : ℚ) ≤ q * 2 := by
      exact_mod_cast (hk.le.trans hpow).trans (Nat.mul_le_mul_right 2 h.le_quot)
    calc (k : ℚ) * 2 ^ e ≤ k * 2 ^ (c - 1) := by gcongr <;> [norm_num; omega]
      _ ≤ q * 2 * 2 ^ (c - 1) := by gcongr
      _ = q * 2 ^ c := by rw [mul_assoc, ← zpow_one_add₀ two_ne_zero, add_sub_cancel]

end Truncates

/-! ## The rounded significand -/

/-- Significand and unit after rounding `q` units `2 ^ c` down or up: a significand that reaches `2 ^ prec`
is halved and its unit doubled. -/
inductive RoundsTo (prec q : Nat) (c : Int) : Bool → Nat → Int → Prop
  | down : RoundsTo prec q c false q c
  | up (h : q + 1 < 2 ^ prec) : RoundsTo prec q c true (q + 1) c
  | carry (h : q + 1 = 2 ^ prec) : RoundsTo prec q c true (2 ^ (prec - 1)) (c + 1)

theorem roundMagnitude_cases {prec : Nat} {rm : BitVec 2} {neg : Bool} {num den : Nat} {m : Nat} {e : Int}
    {inexact : Bool} (hp : 1 ≤ prec) (hn : 0 < num) (hd : 0 < den)
    (h : roundMagnitude prec rm neg num den = ⟨m, e, inexact⟩) :
    ∃ c q r d, Truncates prec (num / den) c q r d ∧
      RoundsTo prec q c (roundsUp rm neg q r d) m (e - (prec - 1)) ∧ inexact = decide (r ≠ 0) := by
  have ht := truncates_floorLog2 hp hn hd rfl rfl rfl
  have hlt := ht.quot_lt
  refine ⟨_, _, _, _, ht, ?_⟩
  unfold roundMagnitude at h
  dsimp only at h
  generalize roundsUp rm neg _ _ _ = up at h ⊢
  cases up with
  | false =>
    rw [if_neg (by simpa using hlt.ne)] at h
    cases h
    exact ⟨.down, rfl⟩
  | true =>
    simp only [if_true] at h
    split at h <;> cases h
    next hc =>
      refine ⟨?_, rfl⟩
      rw [add_sub_right_comm]
      exact .carry hc
    next hc => exact ⟨.up (lt_of_le_of_ne hlt hc), rfl⟩

namespace RoundsTo

variable {prec : Nat} {x : ℚ} {c c' : Int} {q r d m : Nat} {up : Bool}

theorem mant_bounds (h : RoundsTo prec q c up m c') (hp : 2 ≤ prec) (hl : 2 ^ (prec - 1) ≤ q)
    (hu : q < 2 ^ prec) : 2 ^ (prec - 1) ≤ m ∧ m < 2 ^ prec := by
  cases h with
  | down => exact ⟨hl, hu⟩
  | up h => exact ⟨by omega, h⟩
  | carry => exact ⟨le_rfl, Nat.pow_lt_pow_right one_lt_two (by omega)⟩

/-- The rounded value is one of the neighbours. -/
theorem value (h : RoundsTo prec q c up m c') (hp : 1 ≤ prec) :
    (m : ℚ) * 2 ^ c' = if up then (q : ℚ) * 2 ^ c + 2 ^ c else (q : ℚ) * 2 ^ c := by
  cases h with
  | down => rfl
  | up => push_cast; rw [add_one_mul]; rfl
  | carry h =>
    have hq : (q : ℚ) + 1 = 2 ^ (prec - 1) * 2 := by
      rw [← pow_succ, Nat.sub_add_cancel hp]
      exact_mod_cast h
    rw [zpow_add_one₀ two_ne_zero, if_pos rfl, ← add_one_mul, hq]
    push_cast
    ring

/-- The unit never shrinks, and it doubles when rounding up gives a power of two. -/
theorem unit_le (h : RoundsTo prec q c up m c') : (2 : ℚ) ^ c ≤ 2 ^ c' := by
  cases h with
  | down | up => exact le_rfl
  | carry => gcongr <;> [norm_num; omega]

theorem unit_of_power (h : RoundsTo prec q c true m c') (hl : 2 ^ (prec - 1) ≤ q)
    (hm : m = 2 ^ (prec - 1)) : (2 : ℚ) ^ c' = 2 * 2 ^ c := by
  cases h with
  | up => omega
  | carry => rw [zpow_add_one₀ two_ne_zero, mul_comm]

/-- Rounding an odd quotient up makes the significand even. -/
theorem even_of_odd (h : RoundsTo prec q c true m c') (hp : 2 ≤ prec) (hq : q % 2 = 1) : m % 2 = 0 := by
  cases h with
  | up => omega
  | carry =>
    obtain ⟨n, rfl⟩ := Nat.exists_eq_add_of_le hp
    rw [show 2 + n - 1 = n + 1 by omega, pow_succ, Nat.mul_mod_left]

end RoundsTo

/-! ## The directed modes -/

section
variable {neg : Bool} {q r d : Nat}

theorem roundsUp_of_toward {rm : BitVec 2}
    (h : rm = 1 ∨ (rm = 2 ∧ neg = true) ∨ (rm = 3 ∧ neg = false)) :
    roundsUp rm neg q r d = false := by
  rcases h with rfl | ⟨rfl, rfl⟩ | ⟨rfl, rfl⟩ <;> simp [roundsUp]

theorem roundsUp_of_away {rm : BitVec 2} (h : (rm = 2 ∧ neg = false) ∨ (rm = 3 ∧ neg = true)) :
    roundsUp rm neg q r d = decide (r ≠ 0) := by
  rcases h with ⟨rfl, rfl⟩ | ⟨rfl, rfl⟩ <;> simp [roundsUp]

variable {prec m : Nat} {x v : ℚ} {c c' : Int} (t : Truncates prec x c q r d) (hp : 2 ≤ prec)
  (hv : v = m * 2 ^ c')
include t hp hv

/-- Truncation gives the lower neighbour. -/
theorem Truncates.rounds_down (h : RoundsTo prec q c false m c') :
    v ≤ x ∧ x < v + 2 ^ c' ∧
      ∀ (k : Nat) (e : Int) (y : ℚ), k < 2 ^ prec → y = k * 2 ^ e → y ≤ x → y ≤ v := by
  have hlo : v = q * 2 ^ c := hv.trans (h.value (by omega))
  have hle := t.lower_le
  have hlt := t.lt_upper
  have hunit := h.unit_le
  refine ⟨by linarith, by linarith, ?_⟩
  rintro k e y hk rfl hy
  rcases t.le_lower_or_upper_le hk e with hy' | hy' <;> linarith

/-- Rounding away gives the upper neighbour, or the magnitude itself when it is exact. -/
theorem Truncates.rounds_away (h : RoundsTo prec q c (decide (r ≠ 0)) m c') :
    x ≤ v ∧ v < x + 2 ^ c' ∧ (m = 2 ^ (prec - 1) → v < x + 2 ^ c' / 2) ∧
      ∀ (k : Nat) (e : Int) (y : ℚ), k < 2 ^ prec → y = k * 2 ^ e → x ≤ y → v ≤ y := by
  have hval := hv.trans (h.value (by omega))
  have hunit := h.unit_le
  have hpos : (0 : ℚ) < 2 ^ c := by positivity
  by_cases hr : r = 0
  · have hx : v = x := by
      rw [hval, if_neg (by simpa using hr)]
      exact t.rem_eq_zero_iff.1 hr
    subst hx
    exact ⟨le_rfl, by linarith, fun _ => by linarith, fun _ _ _ _ _ hy => hy⟩
  · rw [decide_eq_true hr] at h
    have hup : v = q * 2 ^ c + 2 ^ c := by rw [hval, if_pos (decide_eq_true hr)]
    have hlt : q * 2 ^ c < x := lt_of_le_of_ne t.lower_le (mt t.rem_eq_zero_iff.2 hr)
    have hle := t.lt_upper
    refine ⟨by linarith, by linarith, fun hm => ?_, ?_⟩
    · have := h.unit_of_power t.le_quot hm
      linarith
    · rintro k e y hk rfl hy
      rcases t.le_lower_or_upper_le hk e with hy' | hy' <;> linarith

end

/-! ## The nearest mode -/

section
variable {neg : Bool} {prec q r d m : Nat} {x v : ℚ} {c c' : Int}

theorem roundsUp_nearest_iff : roundsUp 0 neg q r d = true ↔ d < 2 * r ∨ (2 * r = d ∧ q % 2 = 1) := by
  simp [roundsUp]

variable (t : Truncates prec x c q r d)
include t

/-- RN goes down from the lower half, and from the middle when the quotient is even. -/
theorem Truncates.nearest_down (h : roundsUp 0 neg q r d = false) :
    2 * (x - q * 2 ^ c) ≤ 2 ^ c ∧ (2 * (x - q * 2 ^ c) = 2 ^ c → q % 2 = 0) := by
  rw [← Bool.not_eq_true, roundsUp_nearest_iff] at h
  rw [le_iff_lt_or_eq, ← t.two_mul_rem_lt_iff, ← t.two_mul_rem_eq_iff]
  omega

/-- RN goes up from the upper half, and from the middle when the quotient is odd. -/
theorem Truncates.nearest_up (h : roundsUp 0 neg q r d = true) :
    2 ^ c ≤ 2 * (x - q * 2 ^ c) ∧ (2 * (x - q * 2 ^ c) = 2 ^ c → q % 2 = 1) := by
  rw [roundsUp_nearest_iff] at h
  rw [← not_lt, ← t.two_mul_rem_lt_iff, ← t.two_mul_rem_eq_iff]
  omega

/-- Neither neighbour is farther than any representable number, and as far as another one only in the
middle. -/
theorem Truncates.nearest_le {k : Nat} (hk : k < 2 ^ prec) (e : Int)
    (hv : (v = q * 2 ^ c ∧ 2 * (x - q * 2 ^ c) ≤ 2 ^ c) ∨
      (v = q * 2 ^ c + 2 ^ c ∧ 2 ^ c ≤ 2 * (x - q * 2 ^ c))) :
    |v - x| ≤ |k * 2 ^ e - x| ∧
      (|v - x| = |k * 2 ^ e - x| → (k : ℚ) * 2 ^ e ≠ v → 2 * (x - q * 2 ^ c) = 2 ^ c) := by
  have hle := t.lower_le
  have hlt := t.lt_upper
  have hy := t.le_lower_or_upper_le hk e
  generalize (k : ℚ) * 2 ^ e = y at hy ⊢
  have hyx : |y - x| = x - y ∧ y ≤ q * 2 ^ c ∨ |y - x| = y - x ∧ q * 2 ^ c + 2 ^ c ≤ y :=
    hy.imp (fun hy => ⟨by rw [abs_sub_comm, abs_of_nonneg (by linarith)], hy⟩)
      (fun hy => ⟨abs_of_nonneg (by linarith), hy⟩)
  rcases hv with ⟨rfl, hmid⟩ | ⟨rfl, hmid⟩
  · rw [abs_sub_comm, abs_of_nonneg (by linarith)]
    rcases hyx with ⟨hd, hy⟩ | ⟨hd, hy⟩ <;> rw [hd]
    · exact ⟨by linarith, fun heq hne => absurd (by linarith) hne⟩
    · exact ⟨by linarith, fun heq _ => by linarith⟩
  · rw [abs_of_nonneg (by linarith)]
    rcases hyx with ⟨hd, hy⟩ | ⟨hd, hy⟩ <;> rw [hd]
    · exact ⟨by linarith, fun heq _ => by linarith⟩
    · exact ⟨by linarith, fun heq hne => absurd (by linarith) hne⟩

/-- RN gives the nearer neighbour, the even one from the middle. -/
theorem Truncates.rounds_nearest (hp : 2 ≤ prec) (hv : v = m * 2 ^ c')
    (h : RoundsTo prec q c (roundsUp 0 neg q r d) m c') :
    |v - x| * 2 ≤ 2 ^ c' ∧ (|v - x| * 2 = 2 ^ c' → m % 2 = 0) ∧
      (m = 2 ^ (prec - 1) → x < v → |v - x| * 4 ≤ 2 ^ c') ∧
      ∀ (k : Nat) (e : Int) (y : ℚ), k < 2 ^ prec → y = k * 2 ^ e →
        |v - x| ≤ |y - x| ∧ (|v - x| = |y - x| → y ≠ v → m % 2 = 0) := by
  have hval := hv.trans (h.value (by omega))
  have hunit := h.unit_le
  have hle := t.lower_le
  have hlt := t.lt_upper
  cases hup : roundsUp 0 neg q r d with
  | false =>
    obtain ⟨hmid, heven⟩ := t.nearest_down hup
    rw [hup] at h hval
    simp only [Bool.false_eq_true, if_false] at hval
    have hm : 2 * (x - q * 2 ^ c) = 2 ^ c → m % 2 = 0 := by cases h; exact heven
    have habs : |v - x| = x - q * 2 ^ c := by rw [hval, abs_sub_comm, abs_of_nonneg (by linarith)]
    refine ⟨by linarith, fun heq => hm (by linarith), fun _ hxv => absurd hxv (by linarith), ?_⟩
    rintro k e y hk rfl
    obtain ⟨hnear, htie⟩ := t.nearest_le hk e (.inl ⟨hval, hmid⟩)
    exact ⟨hnear, fun heq hne => hm (htie heq hne)⟩
  | true =>
    obtain ⟨hmid, hodd⟩ := t.nearest_up hup
    rw [hup] at h hval
    simp only [if_true] at hval
    have hm : 2 * (x - q * 2 ^ c) = 2 ^ c → m % 2 = 0 := fun heq => h.even_of_odd hp (hodd heq)
    have habs : |v - x| = q * 2 ^ c + 2 ^ c - x := by rw [hval, abs_of_nonneg (by linarith)]
    refine ⟨by linarith, fun heq => hm (by linarith), fun hpow _ => ?_, ?_⟩
    · have := h.unit_of_power t.le_quot hpow
      linarith
    · rintro k e y hk rfl
      obtain ⟨hnear, htie⟩ := t.nearest_le hk e (.inr ⟨hval, hmid⟩)
      exact ⟨hnear, fun heq hne => hm (htie heq hne)⟩

end

/-! ## Exactness -/

/-- RN, like the other modes, stays with an exact quotient. -/
theorem roundsUp_of_rem_zero {rm : BitVec 2} {neg : Bool} {q d : Nat} (hd : 0 < d) :
    roundsUp rm neg q 0 d = false := by
  unfold roundsUp
  split <;> simp [hd.ne]

/-- The value changes exactly when something is cut off. -/
theorem Truncates.rounded_ne_iff {prec m : Nat} {rm : BitVec 2} {neg : Bool} {x v : ℚ}
    {c c' : Int} {q r d : Nat} (t : Truncates prec x c q r d) (hp : 1 ≤ prec) (hv : v = m * 2 ^ c')
    (h : RoundsTo prec q c (roundsUp rm neg q r d) m c') : r ≠ 0 ↔ v ≠ x := by
  rw [hv, h.value hp, not_iff_not]
  constructor
  · intro hr
    have hd : 0 < d := (Nat.zero_le r).trans_lt t.rem_lt
    rw [hr, roundsUp_of_rem_zero hd]
    exact t.rem_eq_zero_iff.1 hr
  · intro hx
    have hlt := t.lt_upper
    split at hx
    · linarith
    · exact t.rem_eq_zero_iff.2 hx

/-! ## The obligation -/

/-- Settles O59: the magnitude lies between two representable neighbours, and each mode takes the one the
rule asks for. -/
theorem roundingIsCorrect : Obligations.RoundingIsCorrect := by
  unfold Obligations.RoundingIsCorrect
  intro prec rm neg num den hp hn hd m e inexact hr x v u hx hu hv
  obtain ⟨c, q, r, d, t, h, rfl⟩ := roundMagnitude_cases (by omega) hn hd hr
  rw [← hx] at t
  obtain ⟨hml, hmu⟩ := h.mant_bounds hp t.le_quot t.quot_lt
  subst hu
  refine ⟨hml, hmu, decide_eq_true_iff.trans (t.rounded_ne_iff (by omega) hv h), ?_, ?_, ?_⟩
  · rintro rfl
    exact t.rounds_nearest hp hv h
  · intro hrm
    rw [roundsUp_of_toward hrm] at h
    exact t.rounds_down hp hv h
  · intro hrm
    rw [roundsUp_of_away hrm] at h
    exact t.rounds_away hp hv h

end Sys2Proof.Machine

/-! PROOFS. The formats as bit fields, the patterns of normalized numbers, and how a numeric result is
finished (45_fpa_formats.md R312 to R316, R319; 46_fpa_instructions.md R369). Statement O60. -/

namespace Sys2Proof.Machine

/-! ## Patterns as bit fields (45_fpa_formats.md R312, R313, R315) -/

section
variable (f : Format) (x : Raw)

theorem Format.exponent_eq_field : f.exponent x = (x.extractLsb' f.fracBits f.expBits).toNat := by
  rw [Format.exponent, BitVec.extractLsb'_toNat, Nat.shiftRight_eq_div_pow]

theorem Format.fraction_eq_field : f.fraction x = (x.extractLsb' 0 f.fracBits).toNat := by
  rw [Format.fraction, BitVec.extractLsb'_toNat, Nat.shiftRight_zero]

theorem Format.fraction_eq_zero_iff : f.fraction x = 0 ↔ x.extractLsb' 0 f.fracBits = 0 := by
  rw [Format.fraction_eq_field, ← BitVec.toNat_inj]
  rfl

theorem Format.exponent_eq_iff {n : Nat} (hn : n < 2 ^ f.expBits) :
    f.exponent x = n ↔ x.extractLsb' f.fracBits f.expBits = BitVec.ofNat f.expBits n := by
  rw [Format.exponent_eq_field, ← BitVec.toNat_inj, BitVec.toNat_ofNat, Nat.mod_eq_of_lt hn]

/-- A NaN is signaling by the top bit of its fraction (45_fpa_formats.md R316). -/
theorem Format.fraction_top_bit (hf : 0 < f.fracBits) :
    (f.fraction x / 2 ^ (f.fracBits - 1) == 1) = x.getLsbD (f.fracBits - 1) := by
  have hlt : f.fraction x / 2 ^ (f.fracBits - 1) < 2 := by
    rw [Nat.div_lt_iff_lt_mul (by positivity), ← pow_succ', Nat.sub_add_cancel hf]
    exact Nat.mod_lt _ (by positivity)
  have hbit : x.getLsbD (f.fracBits - 1) = (f.fraction x).testBit (f.fracBits - 1) := by
    rw [Format.fraction, Nat.testBit_mod_two_pow, decide_eq_true (by omega), Bool.true_and]
    rfl
  rw [hbit, Nat.testBit_eq_decide_div_mod_eq, Nat.mod_eq_of_lt hlt]
  rfl

theorem Format.value_eq_fields (hf : 0 < f.fracBits) : f.value x =
    if x.extractLsb' f.fracBits f.expBits = BitVec.ofNat f.expBits (2 ^ f.expBits - 1) then
      if x.extractLsb' 0 f.fracBits = 0 then .inf (x.getLsbD (f.width - 1))
      else .nan (x.getLsbD (f.fracBits - 1))
    else if x.extractLsb' f.fracBits f.expBits = 0 then
      if x.extractLsb' 0 f.fracBits = 0 then .zero (x.getLsbD (f.width - 1))
      else .finite (x.getLsbD (f.width - 1)) true (x.extractLsb' 0 f.fracBits).toNat (f.emin - f.fracBits)
    else .finite (x.getLsbD (f.width - 1)) false (2 ^ f.fracBits + (x.extractLsb' 0 f.fracBits).toNat)
      ((x.extractLsb' f.fracBits f.expBits).toNat - (f.bias + f.fracBits)) := by
  unfold Format.value
  simp only [f.exponent_eq_iff x (Nat.sub_lt (Nat.two_pow_pos _) one_pos),
    f.exponent_eq_iff x (Nat.two_pow_pos _), f.fraction_eq_zero_iff, f.fraction_top_bit x hf]
  simp only [f.exponent_eq_field, f.fraction_eq_field, sub_sub]
  rfl

end

/-! ## The pattern of a normalized number (45_fpa_formats.md R315) -/

/-- The fields of a format fill its width, and its normalized exponents are the fields between the least and
the greatest. -/
structure Format.Wf (f : Format) : Prop where
  width_eq : f.width = f.expBits + f.fracBits + 1
  width_le : f.width ≤ 64
  emin_eq : f.emin + f.bias = 1
  emax_eq : f.emax + f.bias + 2 = 2 ^ f.expBits

theorem single_wf : single.Wf := ⟨rfl, by decide, rfl, rfl⟩

theorem double_wf : double.Wf := ⟨rfl, le_rfl, rfl, rfl⟩

/-- A pattern put together from a sign, a biased exponent and a fraction. -/
def Format.pack (f : Format) (neg : Bool) (b r : Nat) : Raw :=
  BitVec.ofNat 64 (f.signBit neg + b * 2 ^ f.fracBits + r)

theorem Format.normal_eq_pack (f : Format) (neg : Bool) {b : Nat} (r : Nat) {e : Int} (h : e + f.bias = b) :
    f.normal neg (2 ^ f.fracBits + r) e = f.pack neg b r := by
  rw [Format.normal, h, Int.toNat_natCast, Nat.add_sub_cancel_left, Format.pack]

namespace Format.Wf

variable {f : Format} (h : f.Wf) (neg : Bool) {b r : Nat} (hb : b < 2 ^ f.expBits) (hr : r < 2 ^ f.fracBits)
include h hb hr

/-- Exponent and fraction stay below the sign bit. -/
theorem fields_lt : b * 2 ^ f.fracBits + r < 2 ^ (f.width - 1) := by
  calc b * 2 ^ f.fracBits + r < (b + 1) * 2 ^ f.fracBits := by rw [add_one_mul]; omega
    _ ≤ 2 ^ f.expBits * 2 ^ f.fracBits := Nat.mul_le_mul_right _ hb
    _ = 2 ^ (f.width - 1) := by rw [h.width_eq, ← pow_add]; rfl

theorem toNat_pack : (f.pack neg b r).toNat =
    2 ^ (f.width - 1) * neg.toNat + (b * 2 ^ f.fracBits + r) := by
  have hs : f.signBit neg = 2 ^ (f.width - 1) * neg.toNat := by cases neg <;> simp [Format.signBit]
  have hlt := h.fields_lt hb hr
  have hsign : 2 ^ (f.width - 1) * neg.toNat ≤ 2 ^ (f.width - 1) * 1 :=
    Nat.mul_le_mul_left _ neg.toNat_le
  have hwidth := h.width_le
  have hw : (2 : Nat) ^ (f.width - 1) ≤ 2 ^ 63 := Nat.pow_le_pow_right two_pos (by omega)
  rw [Format.pack, BitVec.toNat_ofNat, hs, add_assoc, Nat.mod_eq_of_lt (by omega)]

theorem sign_pack : f.sign (f.pack neg b r) = neg := by
  rw [Format.sign, ← BitVec.testBit_toNat, h.toNat_pack neg hb hr,
    Nat.testBit_two_pow_mul_add _ (h.fields_lt hb hr), if_neg (lt_irrefl _), Nat.sub_self]
  cases neg <;> rfl

/-- The pattern is `2 ^ expBits` times the sign and the exponent, above the fraction. -/
theorem toNat_pack_eq : (f.pack neg b r).toNat =
    2 ^ f.fracBits * (2 ^ f.expBits * neg.toNat + b) + r := by
  rw [h.toNat_pack neg hb hr, h.width_eq, Nat.add_sub_cancel, pow_add]
  ring

theorem fraction_pack : f.fraction (f.pack neg b r) = r := by
  rw [Format.fraction, h.toNat_pack_eq neg hb hr, Nat.mul_add_mod, Nat.mod_eq_of_lt hr]

theorem exponent_pack : f.exponent (f.pack neg b r) = b := by
  rw [Format.exponent, h.toNat_pack_eq neg hb hr, Nat.mul_add_div (Nat.two_pow_pos _), Nat.div_eq_of_lt hr,
    Nat.add_zero, Nat.mul_add_mod, Nat.mod_eq_of_lt hb]

omit hb hr in
/-- A normalized number has its pattern's value (45_fpa_formats.md R315 (3)). -/
theorem value_normal {m : Nat} {e : Int} (hl : 2 ^ f.fracBits ≤ m) (hu : m < 2 ^ (f.fracBits + 1))
    (hemin : f.emin ≤ e) (hemax : e ≤ f.emax) :
    f.value (f.normal neg m e) = .finite neg false m (e - f.fracBits) := by
  obtain ⟨r, rfl⟩ := Nat.exists_eq_add_of_le hl
  have hr : r < 2 ^ f.fracBits := by rw [pow_succ] at hu; omega
  have hleast := h.emin_eq
  have hgreatest := h.emax_eq
  obtain ⟨b, hbias⟩ : ∃ b : Nat, e + f.bias = b := Int.eq_ofNat_of_zero_le (by omega)
  have hb0 : b ≠ 0 := by omega
  have hbmax : b + 1 < 2 ^ f.expBits := by zify; omega
  have hb : b < 2 ^ f.expBits := by omega
  rw [f.normal_eq_pack neg r hbias, Format.value, h.exponent_pack neg hb hr, h.fraction_pack neg hb hr,
    h.sign_pack neg hb hr,
    if_neg (by omega), if_neg hb0, ← hbias, add_sub_cancel_right]

end Format.Wf

/-! ## Finishing a result (46_fpa_instructions.md R369) -/

/-- The overflow default is the infinity where the mode rounds away, else the largest number
(60_exceptions.md R452). -/
theorem overflowDefault_eq (f : Format) (rm : BitVec 2) (neg : Bool) :
    overflowDefault f rm neg =
      if rm = 0 ∨ (rm = 2 ∧ neg = false) ∨ (rm = 3 ∧ neg = true) then f.infinity neg
      else f.largest neg := by
  have hrm : ∀ rm : BitVec 2, rm = 0 ∨ rm = 1 ∨ rm = 2 ∨ rm = 3 := by decide
  rcases hrm rm with rfl | rfl | rfl | rfl <;> cases neg <;> rfl

section
variable {tiny : Bool} {f : Format} {rm : BitVec 2} {neg : Bool} {num den m : Nat} {e : Int} {inexact : Bool}
  (h : roundMagnitude f.prec rm neg num den = ⟨m, e, inexact⟩)
include h

/-- A result below the smallest normalized number, after rounding or where the part tests before it
(45_fpa_formats.md R330). -/
theorem finishNumeric_of_tiny (ht : e < f.emin ∨ (tiny = false ∧ floorLog2 num den < f.emin)) :
    finishNumeric tiny f rm neg num den = ⟨0x20, 0⟩ := by
  unfold finishNumeric
  rw [h]
  refine if_pos ?_
  rcases ht with ht | ⟨rfl, ht⟩ <;> simp [ht]

variable (hmin : f.emin ≤ e) (ht : tiny = true ∨ f.emin ≤ floorLog2 num den)
include hmin ht

theorem finishNumeric_of_not_tiny : finishNumeric tiny f rm neg num den =
    if f.emax < e then ⟨0x05, overflowDefault f rm neg⟩
    else ⟨if inexact then 0x01 else 0, f.normal neg m e⟩ := by
  unfold finishNumeric
  rw [h]
  refine if_neg ?_
  rcases ht with rfl | ht <;> simp [*]

end

/-! ## The obligation -/

/-- Settles O60: the fields of the two formats, the special patterns, then the outcomes of a numeric result by
its rounded exponent. -/
theorem numericResults : Obligations.NumericResults := by
  unfold Obligations.NumericResults
  refine ⟨fun x => ⟨single.value_eq_fields x (by decide), double.value_eq_fields x (by decide)⟩,
    by decide, fun n m e => ⟨single_wf.value_normal n, double_wf.value_normal n⟩,
    fun tiny f rm neg num den m e inexact h => ⟨fun ht => finishNumeric_of_tiny h (.inl ht),
      fun hmin ht hmax => ?_, fun hmin ht hmax => ?_,
      fun _ htiny hlog => finishNumeric_of_tiny h (.inr ⟨htiny, hlog⟩)⟩⟩
  · rw [finishNumeric_of_not_tiny h hmin ht, if_neg hmax.not_gt]
  · rw [finishNumeric_of_not_tiny h hmin ht, if_pos hmax, overflowDefault_eq]

end Sys2Proof.Machine

/-! PROOFS. Operand screening, and ADD, SUB, MUL, DIV and CVT.W of NaNs, infinities, zeros and denormalized
numbers (46_fpa_instructions.md R351 to R355, R362). Statement O58. -/

namespace Sys2Proof.Machine

/-! ## Screening (46_fpa_instructions.md R351; D34) -/

section
variable {vs : List FpValue} {v : FpValue} (hv : v ∈ vs) (rule : FpOutcome)

theorem screened_of_screen_eq_none (h : screen vs = none) : screened vs rule = rule := by
  rw [screened, h]

include hv

theorem screened_of_isSnan (h : v.isSnan = true) : screened vs rule = ⟨0x10, 0⟩ := by
  rw [screened, screen, if_pos (List.any_eq_true.2 ⟨v, hv, h⟩)]
  rfl

/-- A quiet NaN and a denormalized number raise the same exception, so their order does not show. -/
theorem screened_of_isQnan_or_isDenorm (hs : ∀ w ∈ vs, w.isSnan = false)
    (h : v.isQnan = true ∨ v.isDenorm = true) : screened vs rule = ⟨0x20, 0⟩ := by
  have hsnan : ¬ vs.any FpValue.isSnan = true := by simpa using hs
  rw [screened, screen, if_neg hsnan]
  rcases h with h | h
  · rw [if_pos (List.any_eq_true.2 ⟨v, hv, h⟩)]
    rfl
  · rw [if_pos (List.any_eq_true.2 ⟨v, hv, h⟩), ite_self]
    rfl

end

/-! ## The operands that pass the screening -/

/-- A zero or a normalized number. -/
inductive FpValue.IsNormal : FpValue → Prop
  | zero (n : Bool) : IsNormal (.zero n)
  | finite (n : Bool) (m : Nat) (e : Int) (hm : 0 < m) : IsNormal (.finite n false m e)

/-- The implicit bit makes the significand of a normalized number positive (45_fpa_formats.md R315 (3)). -/
theorem Format.mant_pos {f : Format} {x : Raw} {n : Bool} {m : Nat} {e : Int}
    (h : f.value x = .finite n false m e) : 0 < m := by
  unfold Format.value at h
  split_ifs at h
  · cases h
  · cases h
    exact Nat.add_pos_left (Nat.two_pow_pos _) _

theorem Format.isNormal_of_finite {f : Format} {x : Raw} {n : Bool} {m : Nat} {e : Int}
    (h : f.value x = .finite n false m e) : (f.value x).IsNormal := by
  rw [h]
  exact .finite n m e (Format.mant_pos h)

theorem Format.isNormal_of_zero {f : Format} {x : Raw} {n : Bool} (h : f.value x = .zero n) :
    (f.value x).IsNormal := by
  rw [h]
  exact .zero n

theorem Format.isNormal_of_isNumber {f : Format} {x : Raw} (hnum : (f.value x).isNumber = true)
    (hden : (f.value x).isDenorm = false) : (f.value x).IsNormal := by
  cases h : f.value x with
  | nan | inf => rw [h] at hnum; cases hnum
  | zero n => exact .zero n
  | finite n d m e =>
    rw [h] at hden
    cases hden
    exact .finite n m e (Format.mant_pos h)

/-! ## Infinities (46_fpa_instructions.md R352 to R355) -/

section
variable {tiny : Bool} {f : Format} {rm : BitVec 2} {x y : Raw} {n m : Bool}

section
variable (hx : f.value x = .inf n) (hy : f.value y = .inf m)
include hx hy

theorem fpAdd_inf_inf : fpAdd tiny f rm x y = if n = m then ⟨0, f.infinity n⟩ else ⟨0x10, 0⟩ := by
  rw [fpAdd, hx, hy]
  rfl

theorem fpSub_inf_inf : fpSub tiny f rm x y = if n = !m then ⟨0, f.infinity n⟩ else ⟨0x10, 0⟩ := by
  rw [fpSub, hx, hy]
  rfl

theorem fpMul_inf_inf : fpMul tiny f rm x y = ⟨0, f.infinity (n != m)⟩ := by
  rw [fpMul, hx, hy]
  rfl

theorem fpDiv_inf_inf : fpDiv tiny f rm x y = ⟨0x10, 0⟩ := by
  rw [fpDiv, hx, hy]
  rfl

end

section
variable (hx : f.value x = .inf n) (hy : (f.value y).IsNormal)
include hx hy

/-- An infinity with a number after it. -/
theorem fp_inf_normal : fpAdd tiny f rm x y = ⟨0, f.infinity n⟩ ∧
    fpSub tiny f rm x y = ⟨0, f.infinity n⟩ ∧
    fpDiv tiny f rm x y = ⟨0, f.infinity (n != (f.value y).negative)⟩ := by
  rw [fpAdd, fpSub, fpDiv, hx]
  generalize f.value y = b at hy ⊢
  cases hy <;> exact ⟨rfl, rfl, rfl⟩

/-- An infinity with a number before it. -/
theorem fp_normal_inf : fpAdd tiny f rm y x = ⟨0, f.infinity n⟩ ∧
    fpSub tiny f rm y x = ⟨0, f.infinity (!n)⟩ ∧
    fpDiv tiny f rm y x = ⟨0, f.zero (n != (f.value y).negative)⟩ := by
  rw [fpAdd, fpSub, fpDiv, hx, bne_comm (a := n)]
  generalize f.value y = b at hy ⊢
  cases hy <;> exact ⟨rfl, rfl, rfl⟩

end

section
variable (hx : f.value x = .inf n)
include hx

theorem fpMul_inf_zero (hy : f.value y = .zero m) :
    fpMul tiny f rm x y = ⟨0x10, 0⟩ ∧ fpMul tiny f rm y x = ⟨0x10, 0⟩ := by
  rw [fpMul, fpMul, hx, hy]
  exact ⟨rfl, rfl⟩

theorem fpMul_inf_finite {k : Nat} {e : Int} (hy : f.value y = .finite m false k e) :
    fpMul tiny f rm x y = ⟨0, f.infinity (n != m)⟩ ∧ fpMul tiny f rm y x = ⟨0, f.infinity (n != m)⟩ := by
  rw [fpMul, fpMul, hx, hy]
  refine ⟨rfl, ?_⟩
  rw [bne_comm (a := n)]
  rfl

end

/-! ## Division by zero (46_fpa_instructions.md R355) -/

theorem fpDiv_zero_zero (hx : f.value x = .zero n) (hy : f.value y = .zero m) :
    fpDiv tiny f rm x y = ⟨0x10, 0⟩ := by
  rw [fpDiv, hx, hy]
  rfl

theorem fpDiv_finite_zero {k : Nat} {e : Int} (hx : f.value x = .finite n false k e)
    (hy : f.value y = .zero m) : fpDiv tiny f rm x y = ⟨0x08, f.infinity (n != m)⟩ := by
  rw [fpDiv, hx, hy]
  rfl

/-! ## CVT.W (46_fpa_instructions.md R362) -/

theorem fpToFixed_of_nan_or_inf {b : Bool} (hx : f.value x = .nan b ∨ f.value x = .inf b) :
    fpToFixed f rm x = ⟨0x10, 0⟩ := by
  rcases hx with hx | hx <;> rw [fpToFixed, hx] <;> rfl

theorem fpToFixed_of_isDenorm (hx : (f.value x).isDenorm = true) : fpToFixed f rm x = ⟨0x20, 0⟩ := by
  cases h : f.value x with
  | nan | inf | zero => rw [h] at hx; cases hx
  | finite n d k e =>
    rw [h] at hx
    cases hx
    rw [fpToFixed, h]
    rfl

end

/-! ## The obligation -/

/-- Settles O58: the screening by the classes of both operands, then an infinity with an infinity, with a
normalized number and with a zero, then the divisions by zero and CVT.W. -/
theorem fpaSpecialOperands : Obligations.FpaSpecialOperands := by
  unfold Obligations.FpaSpecialOperands
  intro tiny f rm x y
  refine ⟨fun h => ?_, fun hx hy h => ?_, fun n hx => ⟨fun hy => ?_, fun hy => ?_, fun m => fpMul_inf_zero hx,
    fun m => fpDiv_inf_inf hx, fun m k e hy => ?_, fun m hy => ?_, fun hy => ?_, fun hy => ?_,
    fun m => fpMul_inf_inf hx⟩, fun n m => fpDiv_zero_zero, fun n m k e => fpDiv_finite_zero,
    fun ⟨b, hb⟩ => fpToFixed_of_nan_or_inf hb, fpToFixed_of_isDenorm⟩
  · obtain ⟨v, hv, hs⟩ : ∃ v ∈ [f.value x, f.value y], v.isSnan = true := by simpa using h
    have raises := screened_of_isSnan hv (h := hs)
    exact ⟨raises _, raises _, raises _, raises _⟩
  · have hquiet : ∀ w ∈ [f.value x, f.value y], w.isSnan = false := by simp [hx, hy]
    obtain ⟨v, hv, hs⟩ : ∃ v ∈ [f.value x, f.value y], v.isQnan = true ∨ v.isDenorm = true := by
      simp only [List.mem_cons, List.not_mem_nil, or_false, exists_eq_or_imp, exists_eq_left]
      tauto
    have raises := screened_of_isQnan_or_isDenorm hv (hs := hquiet) (h := hs)
    exact ⟨raises _, raises _, raises _, raises _⟩
  · rw [fpAdd_inf_inf hx hy, if_neg (by cases n <;> decide)]
  · rw [fpSub_inf_inf hx hy, if_neg (by cases n <;> decide)]
  · obtain ⟨hadd, hsub, hdiv⟩ := fp_inf_normal hx (Format.isNormal_of_finite hy)
    obtain ⟨hadd', hsub', hdiv'⟩ := fp_normal_inf hx (Format.isNormal_of_finite hy)
    obtain ⟨hmul, hmul'⟩ := fpMul_inf_finite hx hy
    rw [hy] at hdiv hdiv'
    exact ⟨hadd, hsub, hmul, hdiv, hadd', hsub', hmul', hdiv'⟩
  · obtain ⟨hadd, hsub, hdiv⟩ := fp_inf_normal hx (Format.isNormal_of_zero hy)
    obtain ⟨hadd', hsub', hdiv'⟩ := fp_normal_inf hx (Format.isNormal_of_zero hy)
    rw [hy] at hdiv hdiv'
    exact ⟨hadd, hsub, hdiv, hadd', hsub', hdiv'⟩
  · rw [fpAdd_inf_inf hx hy, if_pos rfl]
  · rw [fpSub_inf_inf hx hy, if_pos (Bool.not_not n).symm]

end Sys2Proof.Machine

/-! PROOFS. Finishing a result by its exact value: the fraction it is written as does not show, and a value
the format holds is kept (45_fpa_formats.md R321; 46_fpa_instructions.md R369). For statements O55 and O56. -/

namespace Sys2Proof.Machine

/-! ## The exponent of a value -/

/-- The bounds of `floorLog2_bounds` determine the exponent. -/
theorem floorLog2_eq {num den : Nat} (hn : 0 < num) (hd : 0 < den) {k : Int}
    (hl : (2 : ℚ) ^ k ≤ num / den) (hu : (num : ℚ) / den < 2 ^ (k + 1)) : floorLog2 num den = k := by
  obtain ⟨hl', hu'⟩ := floorLog2_bounds hd hn
  have hlt := (zpow_lt_zpow_iff_right₀ (one_lt_two (α := ℚ))).1 (hl.trans_lt hu')
  have hgt := (zpow_lt_zpow_iff_right₀ (one_lt_two (α := ℚ))).1 (hl'.trans_lt hu)
  omega

/-! ## One magnitude as two fractions -/

section
variable {num den k : Nat} (hk : 0 < k)
include hk

theorem roundsUp_mul (rm : BitVec 2) (neg : Bool) (q r d : Nat) :
    roundsUp rm neg q (r * k) (d * k) = roundsUp rm neg q r d := by
  have hr : r * k = 0 ↔ r = 0 := by simp [hk.ne']
  have htwice : 2 * (r * k) = 2 * r * k := (mul_assoc ..).symm
  simp only [roundsUp, htwice, Nat.mul_lt_mul_right hk, Nat.mul_left_inj hk.ne', ne_eq, hr]

variable (hn : 0 < num) (hd : 0 < den)
include hn hd

theorem floorLog2_mul : floorLog2 (num * k) (den * k) = floorLog2 num den := by
  have hk' : (k : ℚ) ≠ 0 := by exact_mod_cast hk.ne'
  have hval : ((num * k : Nat) : ℚ) / (den * k : Nat) = num / den := by
    push_cast
    exact mul_div_mul_right _ _ hk'
  obtain ⟨hl, hu⟩ := floorLog2_bounds hd hn
  exact floorLog2_eq (Nat.mul_pos hn hk) (Nat.mul_pos hd hk) (by rwa [hval]) (by rwa [hval])

theorem roundMagnitude_mul (prec : Nat) (rm : BitVec 2) (neg : Bool) :
    roundMagnitude prec rm neg (num * k) (den * k) = roundMagnitude prec rm neg num den := by
  have hr (r : Nat) : r * k = 0 ↔ r = 0 := by simp [hk.ne']
  simp only [roundMagnitude, floorLog2_mul hk hn hd, Nat.mul_right_comm _ k, Nat.mul_div_mul_right _ _ hk,
    Nat.mul_mod_mul_right, roundsUp_mul hk, ne_eq, hr]

theorem finishNumeric_mul (tiny : Bool) (f : Format) (rm : BitVec 2) (neg : Bool) :
    finishNumeric tiny f rm neg (num * k) (den * k) = finishNumeric tiny f rm neg num den := by
  simp only [finishNumeric, roundMagnitude_mul hk hn hd, floorLog2_mul hk hn hd]

end

/-- The outcome depends on the value of the fraction only: both are brought to one denominator. -/
theorem finishNumeric_congr {num den num' den' : Nat} (hn : 0 < num) (hd : 0 < den) (hn' : 0 < num')
    (hd' : 0 < den') (h : (num : ℚ) / den = num' / den') (tiny : Bool) (f : Format) (rm : BitVec 2)
    (neg : Bool) : finishNumeric tiny f rm neg num den = finishNumeric tiny f rm neg num' den' := by
  have hcross : num * den' = num' * den := by
    rw [div_eq_div_iff (by exact_mod_cast hd.ne') (by exact_mod_cast hd'.ne')] at h
    exact_mod_cast h
  rw [← finishNumeric_mul hd' hn hd, ← finishNumeric_mul hd hn' hd', hcross, mul_comm den den']

/-! ## The outcome of an exact result (46_fpa_instructions.md R369) -/

section
variable {tiny : Bool} {f : Format} {rm : BitVec 2} {x : ℚ} {neg : Bool}

theorem finishesAs_finishNumeric {num den : Nat} (hn : 0 < num) (hd : 0 < den)
    (hneg : neg = decide (x < 0)) (hx : |x| = num / den) :
    FinishesAs tiny f rm x (finishNumeric tiny f rm neg num den) := by
  intro num' den' hn' hd' hx'
  rw [← hneg]
  exact finishNumeric_congr hn hd hn' hd' (hx.symm.trans hx') ..

/-- The fraction that `finishScaled` writes for a multiple of a power of two. -/
theorem scaled_fraction (m : Nat) (e : Int) :
    ((m * 2 ^ e.toNat : Nat) : ℚ) / (2 ^ (-e).toNat : Nat) = m * 2 ^ e := by
  rw [zpow_eq_toNat_div]
  push_cast
  rw [mul_div_assoc]

theorem finishesAs_finishScaled {m : Nat} {e : Int} (hm : 0 < m) (hneg : neg = decide (x < 0))
    (hx : |x| = m * 2 ^ e) : FinishesAs tiny f rm x (finishScaled tiny f rm neg m e) :=
  finishesAs_finishNumeric (Nat.mul_pos hm (Nat.two_pow_pos _)) (Nat.two_pow_pos _) hneg
    (hx.trans (scaled_fraction m e).symm)

end

/-! ## Values the format holds -/

/-- A magnitude that is a whole number of units is divided without remainder. -/
theorem scaled_eq_mul {num den m : Nat} {sh : Int} (hd : 0 < den) (h : (num : ℚ) / den * 2 ^ sh = m) :
    num * 2 ^ sh.toNat = m * (den * 2 ^ (-sh).toNat) := by
  have hdq : ((den * 2 ^ (-sh).toNat : Nat) : ℚ) ≠ 0 := by positivity
  rw [← scaled_div, div_eq_iff hdq] at h
  exact_mod_cast h

section
variable {prec num den m : Nat} {e : Int} (hp : 1 ≤ prec) (hn : 0 < num) (hd : 0 < den)
  (hl : 2 ^ (prec - 1) ≤ m) (hu : m < 2 ^ prec) (hx : (num : ℚ) / den = m * 2 ^ (e - (prec - 1)))
include hp hn hd hl hu hx

theorem floorLog2_of_representable : floorLog2 num den = e := by
  have hlq : (2 : ℚ) ^ (prec - 1) ≤ m := by exact_mod_cast hl
  have huq : (m : ℚ) < 2 ^ prec := by exact_mod_cast hu
  refine floorLog2_eq hn hd ?_ ?_ <;> rw [hx]
  · calc (2 : ℚ) ^ e = 2 ^ (prec - 1) * 2 ^ (e - (prec - 1)) := by
          rw [← zpow_natCast, ← zpow_add₀ two_ne_zero]
          congr 1
          omega
      _ ≤ m * 2 ^ (e - (prec - 1)) := by gcongr
  · calc (m : ℚ) * 2 ^ (e - (prec - 1)) < 2 ^ prec * 2 ^ (e - (prec - 1)) := by gcongr
      _ = 2 ^ (e + 1) := by
          rw [← zpow_natCast, ← zpow_add₀ two_ne_zero]
          congr 1
          omega

/-- A magnitude of at most `prec` bits is rounded to itself, and exactly. -/
theorem roundMagnitude_of_representable (rm : BitVec 2) (neg : Bool) :
    roundMagnitude prec rm neg num den = ⟨m, e, false⟩ := by
  have hlog := floorLog2_of_representable hp hn hd hl hu hx
  have hsh : (e - (prec - 1)) + (prec - 1 - e) = (0 : Int) := by ring
  have hscaled := scaled_eq_mul (sh := prec - 1 - e) hd
    (by rw [hx, mul_assoc, ← zpow_add₀ two_ne_zero, hsh, zpow_zero, mul_one])
  have hdpos : 0 < den * 2 ^ (-((prec : Int) - 1 - e)).toNat := by positivity
  unfold roundMagnitude
  simp only [hlog, hscaled, Nat.mul_mod_left, Nat.mul_div_cancel _ hdpos, roundsUp_of_rem_zero hdpos]
  rw [if_neg (by simpa using hu.ne)]
  rfl

end

/-- A normalized number of the format is finished as itself, with no exception. -/
theorem finishNumeric_of_representable {tiny : Bool} {f : Format} {rm : BitVec 2} {neg : Bool}
    {num den m : Nat} {e : Int} (hp : 1 ≤ f.prec) (hn : 0 < num) (hd : 0 < den)
    (hl : 2 ^ (f.prec - 1) ≤ m) (hu : m < 2 ^ f.prec) (hmin : f.emin ≤ e) (hmax : e ≤ f.emax)
    (hx : (num : ℚ) / den = m * 2 ^ (e - (f.prec - 1))) :
    finishNumeric tiny f rm neg num den = ⟨0, f.normal neg m e⟩ := by
  have hlog := floorLog2_of_representable hp hn hd hl hu hx
  have hround := roundMagnitude_of_representable hp hn hd hl hu hx rm neg
  rw [finishNumeric_of_not_tiny hround hmin (.inr (by rwa [hlog])), if_neg hmax.not_gt]
  rfl

theorem finishScaled_of_representable {tiny : Bool} {f : Format} {rm : BitVec 2} {neg : Bool}
    {m m' : Nat} {e e' : Int} (hp : 1 ≤ f.prec) (hm : 0 < m)
    (hl : 2 ^ (f.prec - 1) ≤ m') (hu : m' < 2 ^ f.prec) (hmin : f.emin ≤ e') (hmax : e' ≤ f.emax)
    (hx : (m : ℚ) * 2 ^ e = m' * 2 ^ (e' - (f.prec - 1))) :
    finishScaled tiny f rm neg m e = ⟨0, f.normal neg m' e'⟩ :=
  finishNumeric_of_representable hp (Nat.mul_pos hm (Nat.two_pow_pos _)) (Nat.two_pow_pos _) hl hu hmin hmax
    ((scaled_fraction m e).trans hx)

/-! ## Results that are a multiple of a power of two -/

theorem finishesAs_intScaled {tiny : Bool} {f : Format} {rm : BitVec 2} {k : Int} (hk : k ≠ 0) (e : Int) :
    FinishesAs tiny f rm (k * 2 ^ e) (finishScaled tiny f rm (decide (k < 0)) k.natAbs e) := by
  have hunit : (0 : ℚ) < 2 ^ e := by positivity
  refine finishesAs_finishScaled (Int.natAbs_pos.2 hk) ?_ ?_
  · rw [decide_eq_decide, ← not_le, ← not_le, mul_nonneg_iff_of_pos_right hunit, Int.cast_nonneg_iff]
  · rw [abs_mul, abs_of_pos hunit, Nat.cast_natAbs, Int.cast_abs]

@[simp] theorem FpValue.toRat_zero (n : Bool) : (FpValue.zero n).toRat = 0 := rfl

section
variable (n d : Bool) {m : Nat} (e : Int)

theorem FpValue.natAbs_signedMant (m : Nat) : (FpValue.finite n d m e).signedMant.natAbs = m := by
  cases n <;> simp [FpValue.signedMant]

theorem FpValue.abs_toRat (m : Nat) : |(FpValue.finite n d m e).toRat| = m * 2 ^ e := by
  have hmag : (0 : ℚ) ≤ m * 2 ^ e := by positivity
  cases n <;> simp [FpValue.toRat, abs_of_nonneg hmag]

variable (hm : 0 < m)
include hm

theorem FpValue.toRat_ne_zero : (FpValue.finite n d m e).toRat ≠ 0 := by
  rw [← abs_pos, FpValue.abs_toRat]
  positivity

theorem FpValue.neg_eq_decide_toRat : n = decide ((FpValue.finite n d m e).toRat < 0) := by
  have hmag : (0 : ℚ) < m * 2 ^ e := by positivity
  cases n <;> simp [FpValue.toRat, hmag, hmag.le]

theorem finishesAs_finite (tiny : Bool) (f : Format) (rm : BitVec 2) :
    FinishesAs tiny f rm (FpValue.finite n d m e).toRat (finishScaled tiny f rm n m e) :=
  finishesAs_finishScaled hm (FpValue.neg_eq_decide_toRat n d e hm) (FpValue.abs_toRat n d e m)

end

end Sys2Proof.Machine

/-! PROOFS. ADD, SUB, MUL and DIV of even and odd registers, and their values on numbers: the exact sum,
difference, product or quotient, finished (46_fpa_instructions.md R342 to R344, R352 to R355, R369). Statement
O55. -/

namespace Sys2Proof.Machine

/-! ## The end of an instruction (46_fpa_instructions.md R342 to R344; D21) -/

/-- An untrapped V is settled as E (90_conflicts.md C17). -/
theorem State.fpSettled_eq (s : State) (r : FpOutcome) : s.fpSettled r =
    if r.exceptions.getLsbD 4 = true ∧ s.fcr31.enables.getLsbD 4 = false then 0x20 else r.exceptions := by
  simp [State.fpSettled, settleExceptions, fpE]

section
variable {s : State} (h : FpaReady s) {even : Bool}
include h

theorem State.fpaOperation_of_not (he : even = false) (k : Result) :
    s.fpaOperation even k = .refused .oddFpr := by
  rw [State.fpaOperation, State.fpaInstruction_of_ready h, he]
  rfl

variable (he : even = true) (fd : Reg) (o : FpOutcome)
include he

theorem State.fpaOperation_finishSingle : FpOperationResult s o (SingleIn s fd (o.value.extractLsb' 0 32))
    (s.fpaOperation even (s.finishSingle fd o)) := by
  rw [State.fpaOperation, State.fpaInstruction_of_ready h, he]
  exact s.finishSingle_shape fd o

theorem State.fpaOperation_finishDouble : FpOperationResult s o (DoubleIn s fd o.value)
    (s.fpaOperation even (s.finishDouble fd o)) := by
  rw [State.fpaOperation, State.fpaInstruction_of_ready h, he]
  exact s.finishDouble_shape fd o

end

/-! ## Operands that pass the screening -/

section
variable {tiny : Bool} {f : Format} {rm : BitVec 2} {x y : Raw}

theorem screen_of_isNormal {a b : FpValue} (ha : a.IsNormal) (hb : b.IsNormal) : screen [a, b] = none := by
  cases ha <;> cases hb <;> rfl

section
variable (hx : (f.value x).IsNormal) (hy : (f.value y).IsNormal)
include hx hy

theorem fpAdd_of_isNormal : fpAdd tiny f rm x y = addValues tiny f rm (f.value x) (f.value y) :=
  screened_of_screen_eq_none _ (screen_of_isNormal hx hy)

theorem fpSub_of_isNormal : fpSub tiny f rm x y = addValues tiny f rm (f.value x) (f.value y).negate :=
  screened_of_screen_eq_none _ (screen_of_isNormal hx hy)

end

/-! ## Sums (46_fpa_instructions.md R352, R353) -/

/-- `exactSum` is the sum of its operands. -/
theorem exactSum_eq {a b : FpValue} (ha : a.isNumber = true) (hb : b.isNumber = true) :
    a.toRat + b.toRat = ((exactSum a b).1 : ℚ) * 2 ^ (exactSum a b).2 := by
  rw [FpValue.toRat_eq_scaled ha (min_le_left _ b.power), FpValue.toRat_eq_scaled hb (min_le_right a.power _),
    ← add_mul, ← Int.cast_add]
  rfl

/-- Numbers of one sign do not cancel. -/
theorem FpValue.sign_ne_of_add_eq_zero {n n' d d' : Bool} {m m' : Nat} {e e' : Int} (hm : 0 < m) (hm' : 0 < m')
    (h : (FpValue.finite n d m e).toRat + (FpValue.finite n' d' m' e').toRat = 0) :
    (FpValue.finite n d m e).negative ≠ (FpValue.finite n' d' m' e').negative := by
  rintro ⟨⟩
  have hsign : (FpValue.finite n d m e).toRat < 0 ↔ (FpValue.finite n d' m' e').toRat < 0 := by
    rw [← decide_eq_decide, ← FpValue.neg_eq_decide_toRat n d e hm,
      ← FpValue.neg_eq_decide_toRat n d' e' hm']
  rcases lt_or_gt_of_ne (FpValue.toRat_ne_zero n d e hm) with hlt | hgt
  · linarith [hsign.1 hlt]
  · linarith [hsign.2 (by linarith)]

theorem addValues_zero_finite (z n d : Bool) (m : Nat) (e : Int) :
    addValues tiny f rm (.zero z) (.finite n d m e) = finishScaled tiny f rm n m e :=
  congrArg (finishScaled tiny f rm n · e) (FpValue.natAbs_signedMant n d e m)

theorem addValues_finite_zero (z n d : Bool) (m : Nat) (e : Int) :
    addValues tiny f rm (.finite n d m e) (.zero z) = finishScaled tiny f rm n m e :=
  congrArg (finishScaled tiny f rm n · e) (FpValue.natAbs_signedMant n d e m)

theorem addValues_finite (n d n' d' : Bool) (m m' : Nat) (e e' : Int) :
    addValues tiny f rm (.finite n d m e) (.finite n' d' m' e') =
      if (exactSum (.finite n d m e) (.finite n' d' m' e')).1 = 0 then ⟨0, f.zero (rm == 3)⟩
      else finishScaled tiny f rm (decide ((exactSum (.finite n d m e) (.finite n' d' m' e')).1 < 0))
        (exactSum (.finite n d m e) (.finite n' d' m' e')).1.natAbs
        (exactSum (.finite n d m e) (.finite n' d' m' e')).2 := rfl

/-- The sum of two numbers: an exact zero by the signs, else finished. -/
theorem addValues_of_isNormal {a b : FpValue} (ha : a.IsNormal) (hb : b.IsNormal) :
    if a.toRat + b.toRat = 0 then
      addValues tiny f rm a b = ⟨0, f.zero (if a.negative = b.negative then a.negative else rm == 3)⟩
    else FinishesAs tiny f rm (a.toRat + b.toRat) (addValues tiny f rm a b) := by
  cases ha with
  | zero n =>
    cases hb with
    | zero n' =>
      rw [if_pos (by simp)]
      rfl
    | finite n' m' e' hm' =>
      rw [FpValue.toRat_zero, zero_add, if_neg (FpValue.toRat_ne_zero n' _ e' hm'), addValues_zero_finite]
      exact finishesAs_finite n' _ e' hm' tiny f rm
  | finite n m e hm =>
    cases hb with
    | zero n' =>
      rw [FpValue.toRat_zero, add_zero, if_neg (FpValue.toRat_ne_zero n _ e hm), addValues_finite_zero]
      exact finishesAs_finite n _ e hm tiny f rm
    | finite n' m' e' hm' =>
      have hsum := exactSum_eq (a := .finite n false m e) (b := .finite n' false m' e') rfl rfl
      split
      next h0 =>
        have hne := FpValue.sign_ne_of_add_eq_zero hm hm' h0
        rw [hsum, mul_eq_zero, or_iff_left (by positivity), Int.cast_eq_zero] at h0
        rw [addValues_finite, if_pos h0, if_neg hne]
      next h0 =>
        rw [hsum, mul_eq_zero, or_iff_left (by positivity), Int.cast_eq_zero] at h0
        rw [hsum, addValues_finite, if_neg h0]
        exact finishesAs_intScaled h0 _

theorem FpValue.IsNormal.negate {b : FpValue} (h : b.IsNormal) : b.negate.IsNormal ∧
    b.negate.toRat = -b.toRat ∧ b.negate.negative = !b.negative := by
  cases h with
  | zero n => exact ⟨.zero _, neg_zero.symm, rfl⟩
  | finite n m e hm =>
    refine ⟨.finite _ m e hm, ?_, rfl⟩
    cases n <;> simp [FpValue.negate, FpValue.toRat]

theorem subValues_of_isNormal {a b : FpValue} (ha : a.IsNormal) (hb : b.IsNormal) :
    if a.toRat - b.toRat = 0 then
      addValues tiny f rm a b.negate =
        ⟨0, f.zero (if a.negative ≠ b.negative then a.negative else rm == 3)⟩
    else FinishesAs tiny f rm (a.toRat - b.toRat) (addValues tiny f rm a b.negate) := by
  obtain ⟨hnormal, hval, hneg⟩ := hb.negate
  have hsum := addValues_of_isNormal (tiny := tiny) (f := f) (rm := rm) ha hnormal
  simpa only [hval, hneg, ← sub_eq_add_neg, Bool.eq_not] using hsum

/-! ## Products and quotients (46_fpa_instructions.md R354, R355) -/

theorem decide_mul_neg {p q : ℚ} (hp : p ≠ 0) (hq : q ≠ 0) :
    decide (p * q < 0) = (decide (p < 0) != decide (q < 0)) := by
  rcases lt_or_gt_of_ne hp with hp | hp <;> rcases lt_or_gt_of_ne hq with hq | hq <;>
    simp [mul_neg_iff, hp, hq, hp.not_gt, hq.not_gt]

theorem decide_div_neg {p q : ℚ} (hp : p ≠ 0) (hq : q ≠ 0) :
    decide (p / q < 0) = (decide (p < 0) != decide (q < 0)) := by
  rw [div_eq_mul_inv, decide_mul_neg hp (inv_ne_zero hq)]
  simp only [inv_lt_zero]

section
variable (hx : (f.value x).IsNormal) (hy : (f.value y).IsNormal)
include hx hy

theorem fpMul_of_isNormal :
    if (f.value x).toRat * (f.value y).toRat = 0 then
      fpMul tiny f rm x y = ⟨0, f.zero ((f.value x).negative != (f.value y).negative)⟩
    else FinishesAs tiny f rm ((f.value x).toRat * (f.value y).toRat) (fpMul tiny f rm x y) := by
  rw [fpMul, screened_of_screen_eq_none _ (screen_of_isNormal hx hy)]
  generalize f.value x = a at hx ⊢
  generalize f.value y = b at hy ⊢
  cases hx with
  | zero n =>
    rw [if_pos (by simp)]
    cases hy <;> rfl
  | finite n m e hm =>
    cases hy with
    | zero n' =>
      rw [if_pos (by simp)]
      rfl
    | finite n' m' e' hm' =>
      have ha := FpValue.toRat_ne_zero n false e hm
      have hb := FpValue.toRat_ne_zero n' false e' hm'
      rw [if_neg (mul_ne_zero ha hb)]
      simp only [FpValue.natAbs_signedMant]
      refine finishesAs_finishScaled (Nat.mul_pos hm hm') ?_ ?_
      · rw [decide_mul_neg ha hb, ← FpValue.neg_eq_decide_toRat _ _ _ hm,
          ← FpValue.neg_eq_decide_toRat _ _ _ hm']
        rfl
      · rw [abs_mul, FpValue.abs_toRat, FpValue.abs_toRat]
        simp only [FpValue.power]
        rw [zpow_add₀ two_ne_zero]
        push_cast
        ring

theorem fpDiv_of_isNormal (h0 : (f.value y).toRat ≠ 0) :
    if (f.value x).toRat = 0 then
      fpDiv tiny f rm x y = ⟨0, f.zero ((f.value x).negative != (f.value y).negative)⟩
    else FinishesAs tiny f rm ((f.value x).toRat / (f.value y).toRat) (fpDiv tiny f rm x y) := by
  rw [fpDiv, screened_of_screen_eq_none _ (screen_of_isNormal hx hy)]
  generalize f.value x = a at hx ⊢
  generalize f.value y = b at hy h0 ⊢
  cases hy with
  | zero n' => exact absurd rfl h0
  | finite n' m' e' hm' =>
    cases hx with
    | zero n =>
      rw [if_pos (FpValue.toRat_zero n)]
      rfl
    | finite n m e hm =>
      have ha := FpValue.toRat_ne_zero n false e hm
      rw [if_neg ha]
      simp only [FpValue.natAbs_signedMant]
      refine finishesAs_finishNumeric (Nat.mul_pos hm (Nat.two_pow_pos _))
        (Nat.mul_pos hm' (Nat.two_pow_pos _)) ?_ ?_
      · rw [decide_div_neg ha h0, ← FpValue.neg_eq_decide_toRat _ _ _ hm,
          ← FpValue.neg_eq_decide_toRat _ _ _ hm']
        rfl
      · rw [scaled_div, abs_div, FpValue.abs_toRat, FpValue.abs_toRat]
        simp only [FpValue.power]
        rw [zpow_sub₀ two_ne_zero, mul_div_mul_comm]

end

end

/-! ## The obligation -/

/-- Settles O55: each instruction is its value rule finished in its format, an odd register is refused, and the
rules on two numbers that pass the screening. -/
theorem fpaArithmeticResults : Obligations.FpaArithmeticResults := by
  unfold Obligations.FpaArithmeticResults
  refine ⟨State.fpSettled_eq, fun s ft fs fd h hft hfs hfd => ?_, fun s ft fs fd i h ho hi => ?_,
    fun tiny f rm x y hxn hyn hxd hyd => ?_⟩
  · have he : (evenFpr ft && evenFpr fs && evenFpr fd) = true := by
      rw [evenFpr, evenFpr, evenFpr, hft, hfs, hfd]
      rfl
    have single (o) := State.fpaOperation_finishSingle h he fd o
    have double (o) := State.fpaOperation_finishDouble h he fd o
    exact ⟨single _, single _, single _, single _, double _, double _, double _, double _⟩
  · have he : (evenFpr ft && evenFpr fs && evenFpr fd) = false := by
      rcases ho with ho | ho | ho <;> simp [evenFpr, ho]
    have odd (k) := State.fpaOperation_of_not h he k
    rcases hi with rfl | rfl | rfl | rfl | rfl | rfl | rfl | rfl <;> exact odd _
  · have hx := Format.isNormal_of_isNumber hxn hxd
    have hy := Format.isNormal_of_isNumber hyn hyd
    rw [fpAdd_of_isNormal hx hy, fpSub_of_isNormal hx hy]
    exact ⟨addValues_of_isNormal hx hy, subValues_of_isNormal hx hy, fpMul_of_isNormal hx hy,
      fpDiv_of_isNormal hx hy⟩

end Sys2Proof.Machine

/-! PROOFS. Rounding to an integer: what CVT.W computes is the rounding of the mode, and no other integer is
(46_fpa_instructions.md R362). For statement O56. -/

namespace Sys2Proof.Machine

/-! ## No mode has two roundings -/

theorem int_eq_of_abs_sub_lt {k k' : Int} (h : |(k : ℚ) - k'| < 1) : k = k' := by
  have habs : |k - k'| < 1 := by exact_mod_cast h
  exact sub_eq_zero.1 (Int.abs_lt_one_iff.1 habs)

section
variable {x : ℚ} {k k' : Int}

/-- Two integers within half a unit are equal, or both as far as that and one apart, so that one is odd. -/
theorem nearest_unique (h : |x - k| * 2 ≤ 1 ∧ (|x - k| * 2 = 1 → k % 2 = 0))
    (h' : |x - k'| * 2 ≤ 1 ∧ (|x - k'| * 2 = 1 → k' % 2 = 0)) : k = k' := by
  obtain ⟨hle, heven⟩ := h
  obtain ⟨hle', heven'⟩ := h'
  have htri : |(k : ℚ) - k'| ≤ |x - k| + |x - k'| := by
    rw [abs_sub_comm x k]
    exact abs_sub_le (k : ℚ) x k'
  rcases lt_or_ge (|x - k| + |x - k'|) 1 with hlt | hge
  · exact int_eq_of_abs_sub_lt (htri.trans_lt hlt)
  · have hk := heven (by linarith)
    have hk' := heven' (by linarith)
    have hnear : |k - k'| ≤ 1 := by exact_mod_cast (show |(k : ℚ) - k'| ≤ 1 by linarith)
    rw [abs_le] at hnear
    omega

/-- Truncation: one magnitude, and one sign unless it is 0. -/
theorem truncation_unique (h : |(k : ℚ)| ≤ |x| ∧ |x| < |(k : ℚ)| + 1 ∧ 0 ≤ x * k)
    (h' : |(k' : ℚ)| ≤ |x| ∧ |x| < |(k' : ℚ)| + 1 ∧ 0 ≤ x * k') : k = k' := by
  obtain ⟨hle, hlt, hsign⟩ := h
  obtain ⟨hle', hlt', hsign'⟩ := h'
  have hmag : |k| = |k'| := by
    apply int_eq_of_abs_sub_lt
    push_cast
    rw [abs_lt]
    constructor <;> linarith
  rcases abs_eq_abs.1 hmag with heq | heq
  · exact heq
  · subst heq
    push_cast at *
    have hx : x * k' = 0 := by linarith
    rcases mul_eq_zero.1 hx with hx | hx
    · rw [hx, abs_zero, abs_nonpos_iff, Int.cast_eq_zero] at hle'
      simp [hle']
    · rw [Int.cast_eq_zero] at hx
      simp [hx]

theorem RoundsToInt.unique {rm : BitVec 2} (h : RoundsToInt rm x k) (h' : RoundsToInt rm x k') : k = k' := by
  obtain ⟨hn, hz, hp, hm⟩ := h
  obtain ⟨hn', hz', hp', hm'⟩ := h'
  have hrm : ∀ rm : BitVec 2, rm = 0 ∨ rm = 1 ∨ rm = 2 ∨ rm = 3 := by decide
  rcases hrm rm with hrm | hrm | hrm | hrm
  · exact nearest_unique (hn hrm) (hn' hrm)
  · exact truncation_unique (hz hrm) (hz' hrm)
  · obtain ⟨hle, hlt⟩ := hp hrm
    obtain ⟨hle', hlt'⟩ := hp' hrm
    exact int_eq_of_abs_sub_lt (by rw [abs_lt]; constructor <;> linarith)
  · obtain ⟨hle, hlt⟩ := hm hrm
    obtain ⟨hle', hlt'⟩ := hm' hrm
    exact int_eq_of_abs_sub_lt (by rw [abs_lt]; constructor <;> linarith)

end

/-! ## The rounded magnitude

The magnitude is `q + r / d`, the truncated quotient and what is cut off. -/

section
variable {q r d : Nat} (hr : r < d)
include hr

theorem cut_off_lt_one : (0 : ℚ) ≤ r / d ∧ (r : ℚ) / d < 1 := by
  have hd : (0 : ℚ) < d := by exact_mod_cast (Nat.zero_le r).trans_lt hr
  exact ⟨by positivity, by rw [div_lt_one hd]; exact_mod_cast hr⟩

/-- Rounding up whatever is cut off. -/
theorem magnitude_away : ((q : ℚ) + r / d) ≤ (if decide (r ≠ 0) then q + 1 else q : Nat) ∧
    ((if decide (r ≠ 0) then q + 1 else q : Nat) : ℚ) < q + r / d + 1 := by
  obtain ⟨hnonneg, hlt⟩ := cut_off_lt_one hr
  by_cases h0 : r = 0
  · simp [h0]
  · have hd : (0 : ℚ) < d := by exact_mod_cast (Nat.zero_le r).trans_lt hr
    have hpos : (0 : ℚ) < r / d := div_pos (by exact_mod_cast Nat.pos_of_ne_zero h0) hd
    simp only [ne_eq, h0, not_false_eq_true, decide_true, if_true, Nat.cast_succ]
    constructor <;> linarith

/-- What is cut off against half a unit. -/
theorem cut_off_half : ((r : ℚ) / d * 2 ≤ 1 ↔ 2 * r ≤ d) ∧ (1 ≤ (r : ℚ) / d * 2 ↔ d ≤ 2 * r) := by
  have hd : (0 : ℚ) < d := by exact_mod_cast (Nat.zero_le r).trans_lt hr
  rw [div_mul_eq_mul_div, div_le_one hd, one_le_div hd, mul_comm]
  exact ⟨by exact_mod_cast Iff.rfl, by exact_mod_cast Iff.rfl⟩

/-- RN: within half a unit, and even from the middle. -/
theorem magnitude_nearest {neg : Bool} {n : Nat} (hn : n = if roundsUp 0 neg q r d then q + 1 else q) :
    |(q + r / d : ℚ) - n| * 2 ≤ 1 ∧ (|(q + r / d : ℚ) - n| * 2 = 1 → n % 2 = 0) := by
  obtain ⟨hnonneg, hlt⟩ := cut_off_lt_one hr
  obtain ⟨hlower, hupper⟩ := cut_off_half hr
  have hup := roundsUp_nearest_iff (neg := neg) (q := q) (r := r) (d := d)
  cases hc : roundsUp 0 neg q r d with
  | false =>
    simp only [hc, Bool.false_eq_true, if_false, false_iff] at hup hn
    have habs : |(q + r / d : ℚ) - n| = r / d := by
      rw [hn, add_sub_cancel_left, abs_of_nonneg hnonneg]
    rw [habs]
    refine ⟨hlower.2 (by omega), fun heq => ?_⟩
    have := hupper.1 heq.ge
    omega
  | true =>
    simp only [hc, if_true, true_iff] at hup hn
    have habs : |(q + r / d : ℚ) - n| = 1 - r / d := by
      rw [hn, Nat.cast_succ, add_sub_add_left_eq_sub, abs_sub_comm, abs_of_nonneg (by linarith)]
    rw [habs]
    refine ⟨by linarith [hupper.2 (by omega)], fun heq => ?_⟩
    have := hlower.1 (by linarith)
    omega

/-- The rounded magnitude is the magnitude when nothing is cut off. -/
theorem magnitude_eq_iff {rm : BitVec 2} {neg : Bool} {n : Nat}
    (hn : n = if roundsUp rm neg q r d then q + 1 else q) : (q + r / d : ℚ) = n ↔ r = 0 := by
  obtain ⟨hnonneg, hlt⟩ := cut_off_lt_one hr
  have hd : (d : ℚ) ≠ 0 := by exact_mod_cast ((Nat.zero_le r).trans_lt hr).ne'
  constructor
  · intro heq
    cases hc : roundsUp rm neg q r d with
    | true =>
      rw [hn, if_pos hc, Nat.cast_succ] at heq
      linarith
    | false =>
      rw [hn, if_neg (by simp [hc]), add_eq_left, div_eq_zero_iff, or_iff_left hd] at heq
      exact_mod_cast heq
  · rintro rfl
    rw [hn, roundsUp_of_rem_zero hr]
    simp

end

/-! ## The rounded integer -/

/-- A magnitude with its sign, as `fpToFixed` forms its integer. -/
def withSign (neg : Bool) (n : Nat) : Int := if neg then -(n : Int) else n

theorem withSign_cast (neg : Bool) (n : Nat) : (withSign neg n : ℚ) = (if neg then -1 else 1) * (n : ℚ) := by
  cases neg <;> simp [withSign]

theorem withSign_even {n : Nat} (h : n % 2 = 0) (neg : Bool) : withSign neg n % 2 = 0 := by
  cases neg <;> simp only [withSign, Bool.false_eq_true, if_true, if_false] <;> omega

section
variable {rm : BitVec 2} {neg : Bool} {q r d n : Nat} {x : ℚ} (hr : r < d)
  (hn : n = if roundsUp rm neg q r d then q + 1 else q) (hx : x = (if neg then -1 else 1) * (q + r / d))
include hr hn hx

/-- The rounded magnitude with the sign of the number is the number rounded in each mode. -/
theorem roundsToInt_withSign : RoundsToInt rm x (withSign neg n) := by
  obtain ⟨hnonneg, hlt⟩ := cut_off_lt_one hr
  have hmag : (0 : ℚ) ≤ q + r / d := by positivity
  have hsign : |(if neg then -1 else 1 : ℚ)| = 1 := by cases neg <;> simp
  have htoward (h : roundsUp rm neg q r d = false) : (n : ℚ) = q := by simp [hn, h]
  have haway (h : roundsUp rm neg q r d = decide (r ≠ 0)) : (q + r / d : ℚ) ≤ n ∧ (n : ℚ) < q + r / d + 1 := by
    rw [hn, h]
    exact magnitude_away hr
  unfold RoundsToInt
  rw [withSign_cast, hx]
  refine ⟨?_, ?_, ?_, ?_⟩
  · rintro rfl
    obtain ⟨hle, heven⟩ := magnitude_nearest hr hn
    rw [← mul_sub, abs_mul, hsign, one_mul]
    exact ⟨hle, fun h => withSign_even (heven h) neg⟩
  · rintro rfl
    rw [htoward (roundsUp_of_toward (.inl rfl))]
    have hsquare : (if neg then -1 else 1 : ℚ) * (if neg then -1 else 1) = 1 := by cases neg <;> norm_num
    rw [abs_mul, abs_mul, hsign, one_mul, one_mul, abs_of_nonneg hmag, Nat.abs_cast, mul_mul_mul_comm,
      hsquare, one_mul]
    exact ⟨by linarith, by linarith, by positivity⟩
  · rintro rfl
    cases neg with
    | false => simpa using haway (roundsUp_of_away (.inl ⟨rfl, rfl⟩))
    | true =>
      rw [htoward (roundsUp_of_toward (.inr (.inl ⟨rfl, rfl⟩))), if_pos rfl]
      constructor <;> linarith
  · rintro rfl
    cases neg with
    | false =>
      rw [htoward (roundsUp_of_toward (.inr (.inr ⟨rfl, rfl⟩))), if_neg Bool.false_ne_true]
      constructor <;> linarith
    | true =>
      obtain ⟨hle, hlt⟩ := haway (roundsUp_of_away (.inr ⟨rfl, rfl⟩))
      rw [if_pos rfl]
      constructor <;> linarith

theorem eq_withSign_iff : x = withSign neg n ↔ r = 0 := by
  have hsign : (if neg then -1 else 1 : ℚ) ≠ 0 := by cases neg <;> simp
  rw [hx, withSign_cast, mul_right_inj' hsign, magnitude_eq_iff hr hn]

end

/-! ## CVT.W of a number (46_fpa_instructions.md R362) -/

/-- `roundInteger` rounds the number of that sign, significand and exponent, and says when that changed it. -/
theorem roundInteger_spec (rm : BitVec 2) (neg d : Bool) (m : Nat) (e : Int) :
    RoundsToInt rm (FpValue.finite neg d m e).toRat (withSign neg (roundInteger rm neg m e).1) ∧
      (roundInteger rm neg m e).2 =
        decide ((FpValue.finite neg d m e).toRat ≠ withSign neg (roundInteger rm neg m e).1) := by
  have hd : 0 < 2 ^ (-e).toNat := Nat.two_pow_pos _
  have hr : m * 2 ^ e.toNat % 2 ^ (-e).toNat < 2 ^ (-e).toNat := Nat.mod_lt _ hd
  have hx : (FpValue.finite neg d m e).toRat = (if neg then -1 else 1) *
      ((m * 2 ^ e.toNat / 2 ^ (-e).toNat : Nat) +
        (m * 2 ^ e.toNat % 2 ^ (-e).toNat : Nat) / (2 ^ (-e).toNat : Nat) : ℚ) := by
    rw [cast_div_add_mod _ hd, scaled_fraction]
    exact mul_assoc _ _ _
  exact ⟨roundsToInt_withSign hr rfl hx,
    decide_eq_decide.2 (not_congr (eq_withSign_iff hr rfl hx).symm)⟩

/-- A normalized number becomes the integer it rounds to, V when that does not fit. -/
theorem fpToFixed_of_roundsToInt {f : Format} {rm : BitVec 2} {x : Raw} {n : Bool} {m : Nat} {e k : Int}
    (hx : f.value x = .finite n false m e) (hk : RoundsToInt rm (f.value x).toRat k) :
    fpToFixed f rm x = if k < -(2 ^ 31) ∨ 2 ^ 31 - 1 < k then ⟨0x10, 0⟩
      else ⟨if (f.value x).toRat = k then 0 else 0x01, (BitVec.ofInt 32 k).setWidth 64⟩ := by
  obtain ⟨hround, hinexact⟩ := roundInteger_spec rm n false m e
  rw [hx] at hk ⊢
  rw [hround.unique hk] at hinexact
  rw [fpToFixed, hx]
  simp only [Bool.false_eq_true, if_false, hinexact]
  rw [← withSign, hround.unique hk]
  simp [FpOutcome.raised, fpV, fpI, fpNone]

end Sys2Proof.Machine

/-! PROOFS. ABS, NEG, MOV and the conversions of even and odd registers, and their values
(46_fpa_instructions.md R342 to R344, R351, R356 to R362, R369). Statement O56. -/

namespace Sys2Proof.Machine

/-! ## The sign bit (46_fpa_instructions.md R356, R358) -/

/-- A pattern of 32 bits has nothing above them. -/
theorem and_low_word {x : Raw} (h : x.toNat < 2 ^ 32) : x &&& 0xffffffff = x := by
  apply BitVec.eq_of_toNat_eq
  rw [BitVec.toNat_and]
  exact (Nat.and_two_pow_sub_one_eq_mod x.toNat 32).trans (Nat.mod_eq_of_lt h)

theorem fpAbs_of_screen {f : Format} {x : Raw} (h : screen [f.value x] = none) :
    fpAbs f x = ⟨0, x &&& ~~~f.signMask⟩ := screened_of_screen_eq_none _ h

theorem fpNeg_of_screen {f : Format} {x : Raw} (h : screen [f.value x] = none) :
    fpNeg f x = ⟨0, x ^^^ f.signMask⟩ := screened_of_screen_eq_none _ h

theorem single_signMask : single.signMask = 0x80000000 := by decide

theorem double_signMask : double.signMask = 0x8000000000000000 := by decide

/-- Clearing bit 31 of a single leaves its low 31 bits. -/
theorem single_and_not_signMask {x : Raw} (h : x.toNat < 2 ^ 32) :
    x &&& ~~~single.signMask = x &&& 0x7fffffff := by
  have hmask : (0xffffffff : Raw) &&& ~~~single.signMask = 0x7fffffff := by decide
  rw [← hmask, ← BitVec.and_assoc, and_low_word h]

theorem double_not_signMask : ~~~double.signMask = 0x7fffffffffffffff := by decide

/-- The classes of an operand exclude each other. -/
theorem FpValue.isSnan_eq_false {v : FpValue} (h : v.isQnan = true ∨ v.isDenorm = true) : v.isSnan = false := by
  cases v with
  | nan signaling => simpa [FpValue.isSnan, FpValue.isQnan, FpValue.isDenorm] using h
  | inf | zero | finite => rfl

/-! ## Conversions (46_fpa_instructions.md R360, R361) -/

section
variable {tiny : Bool} {f g : Format} {rm : BitVec 2} {x : Raw} {n : Bool} {m : Nat} {e : Int}

theorem fpConvert_of_inf (h : f.value x = .inf n) : fpConvert tiny f g rm x = ⟨0, g.infinity n⟩ := by
  rw [fpConvert, h]
  rfl

theorem fpConvert_of_zero (h : f.value x = .zero n) : fpConvert tiny f g rm x = ⟨0, g.zero n⟩ := by
  rw [fpConvert, h]
  rfl

theorem fpConvert_of_finite (h : f.value x = .finite n false m e) :
    fpConvert tiny f g rm x = finishScaled tiny g rm n m e := by
  rw [fpConvert, h]
  rfl

theorem fpToFixed_of_zero (h : f.value x = .zero n) : fpToFixed f rm x = ⟨0, 0⟩ := by
  rw [fpToFixed, h]
  rfl

theorem fpOfFixed_of_zero (h : (x.extractLsb' 0 32).toInt = 0) :
    fpOfFixed tiny g rm x = ⟨0, g.zero false⟩ := if_pos h

theorem fpOfFixed_of_ne_zero (h : (x.extractLsb' 0 32).toInt ≠ 0) :
    fpOfFixed tiny g rm x = finishScaled tiny g rm (decide ((x.extractLsb' 0 32).toInt < 0))
      (x.extractLsb' 0 32).toInt.natAbs 0 := if_neg h

/-! ## To double exactly (46_fpa_instructions.md R361) -/

/-- The significand and the exponent of a normalized number are in the range of its format
(45_fpa_formats.md R314, R315 (3)). -/
theorem Format.Wf.finite_bounds (h : f.Wf) (hx : f.value x = .finite n false m e) :
    2 ^ f.fracBits ≤ m ∧ m < 2 ^ (f.fracBits + 1) ∧ f.emin ≤ e + f.fracBits ∧ e + f.fracBits ≤ f.emax := by
  have hfrac : f.fraction x < 2 ^ f.fracBits := Nat.mod_lt _ (Nat.two_pow_pos _)
  have hexp : f.exponent x < 2 ^ f.expBits := Nat.mod_lt _ (Nat.two_pow_pos _)
  have hleast := h.emin_eq
  have hgreatest := h.emax_eq
  unfold Format.value at hx
  split_ifs at hx with hmax _ hmin
  · cases hx
  · cases hx
    zify at hmax hexp hmin
    rw [Nat.cast_sub Nat.one_le_two_pow] at hmax
    push_cast at hmax
    rw [pow_succ]
    omega

/-- A normalized single is a normalized double, its significand 29 bits longer. -/
theorem fpConvert_single_double (h : single.value x = .finite n false m e) :
    fpConvert tiny single double rm x = ⟨0, double.normal n (m * 2 ^ 29) (e + 23)⟩ := by
  obtain ⟨hl, hu, hmin, hmax⟩ := single_wf.finite_bounds h
  simp only [single] at hl hu hmin hmax
  have hval : (m : ℚ) * 2 ^ e = (m * 2 ^ 29 : Nat) * 2 ^ (e + 23 - (53 - 1)) := by
    rw [show e + 23 - (53 - 1) = e - 29 by ring, zpow_sub₀ two_ne_zero]
    push_cast
    field_simp
  rw [fpConvert_of_finite h]
  refine finishScaled_of_representable ?_ (Format.mant_pos h) ?_ ?_ ?_ ?_ hval <;>
    simp only [double] <;> omega

/-- An integer of at most 53 bits is a normalized double. -/
theorem finishScaled_double_of_lt {neg : Bool} {k : Nat} (hk : 0 < k) (hlt : k < 2 ^ 53) :
    ∃ y, finishScaled tiny double rm neg k 0 = ⟨0, y⟩ ∧
      (double.value y).toRat = (if neg then -1 else 1) * k := by
  have hlog : k.log2 ≤ 52 := Nat.lt_succ_iff.1 ((Nat.log2_lt hk.ne').2 hlt)
  have hl : 2 ^ 52 ≤ k * 2 ^ (52 - k.log2) := by
    calc 2 ^ 52 = 2 ^ k.log2 * 2 ^ (52 - k.log2) := by rw [← pow_add, Nat.add_sub_cancel' hlog]
      _ ≤ k * 2 ^ (52 - k.log2) := Nat.mul_le_mul_right _ (Nat.log2_self_le hk.ne')
  have hu : k * 2 ^ (52 - k.log2) < 2 ^ 53 := by
    calc k * 2 ^ (52 - k.log2) < 2 ^ (k.log2 + 1) * 2 ^ (52 - k.log2) :=
          Nat.mul_lt_mul_of_pos_right Nat.lt_log2_self (Nat.two_pow_pos _)
      _ = 2 ^ 53 := by rw [← pow_add]; congr 1; omega
  have hval : (k : ℚ) = (k * 2 ^ (52 - k.log2) : Nat) * 2 ^ ((k.log2 : Int) - 52) := by
    push_cast
    rw [mul_assoc, ← zpow_natCast, ← zpow_add₀ two_ne_zero, Nat.cast_sub hlog]
    simp
  have hmin : double.emin ≤ k.log2 := by simp only [double]; omega
  have hmax : (k.log2 : Int) ≤ double.emax := by simp only [double]; omega
  refine ⟨_, finishScaled_of_representable (by decide) hk hl hu hmin hmax ?_, ?_⟩
  · rw [zpow_zero, mul_one]
    exact hval
  · rw [double_wf.value_normal neg hl hu hmin hmax, FpValue.toRat, mul_assoc]
    exact congrArg _ hval.symm

/-- Every fixed-point integer is converted to double exactly. -/
theorem fpOfFixed_double : (fpOfFixed tiny double rm x).exceptions = 0 ∧
    (double.value (fpOfFixed tiny double rm x).value).toRat = ((x.extractLsb' 0 32).toInt : ℚ) := by
  by_cases h0 : (x.extractLsb' 0 32).toInt = 0
  · rw [fpOfFixed_of_zero h0, h0]
    exact ⟨rfl, by rw [show double.value (double.zero false) = .zero false by decide]; simp⟩
  · rw [fpOfFixed_of_ne_zero h0]
    generalize hk : (x.extractLsb' 0 32).toInt = k at h0 ⊢
    have hlt : k.natAbs < 2 ^ 53 := by
      have hl := BitVec.le_toInt (x.extractLsb' 0 32)
      have hu := BitVec.toInt_lt (x := x.extractLsb' 0 32)
      omega
    obtain ⟨y, hy, hval⟩ := finishScaled_double_of_lt (tiny := tiny) (rm := rm) (neg := decide (k < 0))
      (Int.natAbs_pos.2 h0) hlt
    rw [hy]
    refine ⟨rfl, hval.trans ?_⟩
    rw [Nat.cast_natAbs]
    rcases lt_or_ge k 0 with hneg | hneg
    · simp [hneg, abs_of_neg hneg]
    · simp [hneg.not_gt, abs_of_nonneg hneg]

end

/-! ## The obligation -/

/-- Settles O56: each instruction is its value rule finished in its format, an odd register is refused, and the
rules by the class of the operand. -/
theorem fpaUnaryResults : Obligations.FpaUnaryResults := by
  unfold Obligations.FpaUnaryResults
  refine ⟨State.fpSettled_eq, fun s fs fd h hfs hfd => ?_, fun s fs fd i h ho hi => ?_, fun _ => rfl,
    fun x hx hs => ?_, fun x hs => ?_, fun tiny f g rm x => ⟨fun h => ?_, fun h => ?_,
      fun n => fpConvert_of_inf, fun n h => ⟨fpConvert_of_zero h, fpToFixed_of_zero h⟩, fun n m e h => ?_,
      fpOfFixed_of_zero, fun h => ?_⟩,
    fun tiny rm x => ⟨fun n m e => fpConvert_single_double, fpOfFixed_double⟩⟩
  · have he : (evenFpr fs && evenFpr fd) = true := by
      rw [evenFpr, evenFpr, hfs, hfd]
      rfl
    have single (o) := State.fpaOperation_finishSingle h he fd o
    have double (o) := State.fpaOperation_finishDouble h he fd o
    exact ⟨single _, double _, single _, double _, single _, double _, single _, double _, single _,
      double _, single _, single _⟩
  · have odd (k) := State.fpaOperation_of_odd h ho k
    rcases hi with rfl | rfl | rfl | rfl | rfl | rfl | rfl | rfl | rfl | rfl | rfl | rfl <;> exact odd _
  · rw [fpAbs_of_screen hs, fpNeg_of_screen hs, single_and_not_signMask hx, single_signMask]
    exact ⟨rfl, rfl⟩
  · rw [fpAbs_of_screen hs, fpNeg_of_screen hs, double_not_signMask, double_signMask]
    exact ⟨rfl, rfl⟩
  · have raises := screened_of_isSnan (List.mem_singleton_self (f.value x)) (h := h)
    exact ⟨raises _, raises _, raises _⟩
  · have raises := screened_of_isQnan_or_isDenorm (List.mem_singleton_self (f.value x))
      (hs := by simpa using FpValue.isSnan_eq_false h) (h := h)
    exact ⟨raises _, raises _, raises _⟩
  · refine ⟨?_, fun k hk => ⟨fun hout => ?_, fun ⟨hmin, hmax⟩ => ?_⟩⟩
    · rw [fpConvert_of_finite h, h]
      exact finishesAs_finite n false e (Format.mant_pos h) tiny g rm
    · rw [fpToFixed_of_roundsToInt h hk, if_pos hout]
    · rw [fpToFixed_of_roundsToInt h hk, if_neg (by omega)]
  · rw [fpOfFixed_of_ne_zero h]
    simpa using finishesAs_intScaled h 0

end Sys2Proof.Machine

/-! PROOFS. What a step comes to before any instruction runs: the reset, the stuck core, and the Halt stall with
its end (60_exceptions.md R432 item 1, R472; 70_reset_and_hazards.md R482, R485; 71_bus_interface.md R545,
R548). Statements O12 and O13. -/

namespace Sys2Proof.Machine

/-! ## What sampling leaves (00_scope.md R12 (1)) -/

@[simp] theorem State.sample_chip (s : State) : s.sample.chip = s.chip := by
  unfold State.sample
  split <;> rfl

@[simp] theorem State.sample_mem (s : State) : s.sample.mem = s.mem := by
  unfold State.sample
  split <;> rfl

/-! ## The issue that runs no instruction (60_exceptions.md R432; 70_reset_and_hazards.md R482, R485) -/

theorem State.issueSampled_of_reset {s : State} {m : ModeVector} (hreset : s.env.reset = some m) :
    s.issueSampled = .done (.next (s.reboot m)) := by
  simp only [State.issueSampled, hreset]

theorem State.issueSampled_of_stuck {s : State} (hreset : s.env.reset = none) (hstuck : s.stuck = true) :
    s.issueSampled = .done (.next s.stall) := by
  simp only [State.issueSampled, hreset, hstuck, if_true]

theorem State.stuck_sample_eq_true {s : State} (h : s.mode.triState = true ∨ s.seq.waiting = true) :
    s.sample.stuck = true := by
  simpa [State.stuck] using h

/-- A reset in mid-run: the reset state of the same part, but for memory, the inputs, the condition latches and
the counter of free values (70_reset_and_hazards.md R482). -/
theorem step_of_reset {s : State} {m : ModeVector} (hreset : s.sample.env.reset = some m) :
    step s = .next (s.sample.reboot m) :=
  step_of_issue_done (State.issueSampled_of_reset hreset)

theorem step_of_stuck {s : State} (hreset : s.sample.env.reset = none)
    (hstuck : s.mode.triState = true ∨ s.seq.waiting = true) : step s = .next s.sample.stall :=
  step_of_issue_done (State.issueSampled_of_stuck hreset (State.stuck_sample_eq_true hstuck))

/-! ## The Halt stall and its end (60_exceptions.md R472; D36) -/

theorem State.issueServed_of_stalled {s : State} (h : s.halting = true) (hline : s.interruptLines = 0) :
    s.issueServed = .done (.next s.halt) := by
  simp only [State.issueServed, h, hline, if_true]

theorem State.issueServed_of_woken {s : State} (h : s.halting = true) (hline : s.interruptLines ≠ 0) :
    s.issueServed = s.wake.issueRunning := by
  simp only [State.issueServed, h, hline, if_true, if_false]

theorem State.issueRunning_of_interrupt {s : State} (h : s.takesInterrupt = true) :
    s.issueRunning = .done (s.raise .int) :=
  if_pos h

/-! ## The obligations -/

/-- Settles O12: reset comes first, and the rebooted state has the fields R482 lists. -/
theorem stepResets : Obligations.StepResets := by
  unfold Obligations.StepResets
  intro s m hreset
  refine ⟨s.sample.reboot m, step_of_reset hreset, s.sample_mem, rfl, ?_⟩
  simp only [State.reboot, State.sample_chip, State.sample_mem, State.sample_seq]
  rfl

/-- Settles O13: a stuck core stalls before the bus; a halting one goes on stalling, or wakes into the running
core, which takes the interrupt or runs the instruction at pc. -/
theorem stepHalts : Obligations.StepHalts := by
  unfold Obligations.StepHalts
  intro s t hreset
  refine ⟨fun hstuck => ?_, fun htri hwait hbus hhalt => ?_⟩
  · rw [step_of_stuck hreset hstuck, State.stall, State.withSeq, State.sample_seq]
  · have hissue : s.issue = t.issueServed :=
      State.issueSampled_of_served hreset (State.stuck_sample_eq_false htri hwait) hbus
    refine ⟨fun hline => step_of_issue_done (hissue.trans (State.issueServed_of_stalled hhalt hline)),
      fun hline => ?_⟩
    have hwoken : s.issue = t.wake.issueRunning := hissue.trans (State.issueServed_of_woken hhalt hline)
    refine ⟨rfl, fun hint => ?_, fun w u i hint hfetch hdecode => ?_⟩
    · rw [step_of_issue_done (hwoken.trans (State.issueRunning_of_interrupt hint))]
      exact ⟨rfl, t.wake.raise_shape .int⟩
    · exact step_of_issue_run ((hwoken.trans (State.issueRunning_of_no_interrupt hint)).trans
        (State.fetchDecode_of_ok hfetch hdecode))

end Sys2Proof.Machine

/-! PROOFS. What exception entry makes of the address records and of Status, read off the register words
(60_exceptions.md R421, R424, R425). Statements O24 and O25. -/

namespace Sys2Proof.Machine

/-! ## The address fields of Context and EntryHi (10_state.md R31, R35) -/

/-- Context[20:2] is BadVPN. -/
theorem contextWord_badVpn (x : ContextReg) : (contextWord x).extractLsb' 2 19 = x.badVpn := by
  rw [contextWord, BitVec.extractLsb'_append_eq_of_le (by decide),
    BitVec.extractLsb'_append_eq_of_add_le (by decide), BitVec.extractLsb'_eq_self]

/-- EntryHi[31:12] is VPN. -/
theorem entryHiWord_vpn (x : EntryHi) : (entryHiWord x).extractLsb' 12 20 = x.vpn := by
  rw [entryHiWord, BitVec.extractLsb'_append_eq_of_le (by decide),
    BitVec.extractLsb'_append_eq_of_le (by decide), BitVec.extractLsb'_eq_self]

/-! ## What every exception leaves of the address records (60_exceptions.md R424, R425) -/

theorem Exc.context_pteBase (x : Exc) (n : Nat) (old : ContextReg) :
    (x.context n old).pteBase = old.pteBase := by
  cases x <;> rfl

theorem Exc.entryHi_pid (x : Exc) (hasTlb : Bool) (n : Nat) (old : EntryHi) :
    (x.entryHi hasTlb n old).pid = old.pid := by
  cases x with
  | adel | ades => cases hasTlb <;> rfl
  | _ => rfl

/-- A base version has no EntryHi for an address error to disturb (60_exceptions.md R424). -/
theorem Exc.entryHi_of_addressError_of_base {x : Exc} {va : Word} (h : x = .adel va ∨ x = .ades va)
    (n : Nat) (old : EntryHi) : x.entryHi false n old = old := by
  obtain rfl | rfl := h <;> rfl

/-! ## The KU/IE push in the Status word (60_exceptions.md R421) -/

section
variable (x : StatusReg)

/-- Status[5:2] take the current and previous pairs; the new current pair is 0. -/
theorem statusWord_push_low :
    (statusWord x.push).extractLsb' 0 6 = (statusWord x).extractLsb' 0 4 ++ (0#2) := by
  apply BitVec.eq_of_getLsbD_eq
  intro i hi
  simp only [statusWord, StatusReg.push, BitVec.getLsbD_extractLsb', BitVec.getLsbD_append, getLsbD_bit]
  interval_cases i <;> simp

/-- The bits below 6 are the last six fields of the layout, and the push changes no other field. -/
theorem statusWord_push_high :
    (statusWord x.push).extractLsb' 6 26 = (statusWord x).extractLsb' 6 26 := by
  simp only [statusWord, StatusReg.push, BitVec.extractLsb'_append_eq_of_le,
    Nat.reduceLeDiff, Nat.reduceSub]

/-- A pop takes bits 5:2, which are where the push has put bits 3:0. -/
theorem statusWord_pop_push_low :
    (statusWord x.push.pop).extractLsb' 0 4 = (statusWord x).extractLsb' 0 4 :=
  calc (statusWord x.push.pop).extractLsb' 0 4
      _ = ((statusWord x.push).extractLsb' 0 6).extractLsb' 2 4 := by
        rw [statusWord_pop_low, BitVec.extractLsb'_extractLsb'_of_le (by decide)]
      _ = ((statusWord x).extractLsb' 0 4 ++ (0#2)).extractLsb' 2 4 := by rw [statusWord_push_low]
      _ = (statusWord x).extractLsb' 0 4 := by
        rw [BitVec.extractLsb'_append_eq_of_le (by decide), BitVec.extractLsb'_eq_self]

end

/-! ## The obligations -/

/-- Settles O24: the records by kind of exception, and the fields no exception changes. -/
theorem addressRecords : Obligations.AddressRecords := by
  unfold Obligations.AddressRecords
  have pid (s : State) (x : Exc) : (s.takeException x).cp0.entryHi.pid = s.cp0.entryHi.pid := by
    rw [State.takeException_cp0]
    exact x.entryHi_pid ..
  refine ⟨fun s va x h => ⟨s.takeException_badVAddr_of_addressError h, ?_, pid s x, fun hbase => ?_⟩,
    fun s va r x h => ?_⟩
  · rw [State.takeException_cp0]
    exact x.context_pteBase ..
  · rw [State.takeException_cp0, hbase]
    exact Exc.entryHi_of_addressError_of_base h ..
  · obtain ⟨hbad, hcontext, hvpn⟩ := s.takeException_records_of_tlb h
    refine ⟨hbad, ?_, ?_, pid s x, ?_, ?_, ?_⟩
    · rw [contextWord_badVpn, hcontext]
    · rw [entryHiWord_vpn, hvpn]
    · rw [State.takeException_cp0]
    · rw [State.takeException_cp0]
    · rw [State.takeException_cp0]
      exact randomDraw_ge _

/-- Settles O25: exception entry pushes Status, and the push is read off the word, low bits and high. -/
theorem statusPush : Obligations.StatusPush := by
  unfold Obligations.StatusPush
  intro s x
  rw [State.takeException_cp0]
  exact ⟨statusWord_push_low _, statusWord_push_high _, statusWord_pop_push_low _⟩

end Sys2Proof.Machine

/-! PROOFS. The exception vectors, where they stand in physical memory, and which translation asks for the UTLB
vector (60_exceptions.md R403, R405; 20_memory.md R102, R103, R110). Statement O26. -/

namespace Sys2Proof.Machine

/-! ## The vector of an exception (60_exceptions.md R403, R405) -/

/-- The refills are the TLB misses marked so. -/
theorem Exc.isRefill_iff (x : Exc) : x.isRefill = true ↔ ∃ va, x = .tlbl va true ∨ x = .tlbs va true := by
  cases x <;> simp [Exc.isRefill]

theorem exceptionVector_of_refill {x : Exc} (h : x.isRefill = true) :
    exceptionVector x false = 0x80000000 ∧ exceptionVector x true = 0xbfc00100 := by
  simp [exceptionVector, h]

theorem exceptionVector_of_not_refill {x : Exc} (h : x.isRefill = false) :
    exceptionVector x false = 0x80000080 ∧ exceptionVector x true = 0xbfc00180 := by
  simp [exceptionVector, h]

/-! ## The translation that ends in a refill (20_memory.md R110; 60_exceptions.md R405) -/

theorem AccessKind.isRefill_tlbMiss (k : AccessKind) (va : Word) (refill : Bool) :
    (k.tlbMiss va refill).isRefill = refill := by
  cases k <;> rfl

section
variable {s t : State} {va : Word} {k : AccessKind} {x : Exc}

/-- An entry that maps the page may be invalid or read-only: never a refill. -/
theorem State.isRefill_of_useTlbEntry {e : TlbEntry} (h : s.useTlbEntry e va k = .exc x t) :
    x.isRefill = false := by
  unfold State.useTlbEntry at h
  split at h
  · cases h
    exact k.isRefill_tlbMiss va false
  split at h
  · cases h
    rfl
  · cases h

/-- A refill is a miss, of an address below kseg0. -/
theorem State.miss_of_translateMapped_refill (h : s.translateMapped va k = .exc x t)
    (hx : x.isRefill = true) : va.getLsbD 31 = false ∧ s.tlbMatches (va.extractLsb' 12 20) = [] := by
  unfold State.translateMapped at h
  split at h
  · cases h
  split at h
  next hm =>
    cases h
    rw [AccessKind.isRefill_tlbMiss] at hx
    exact ⟨by simpa using hx, hm⟩
  next => exact absurd (State.isRefill_of_useTlbEntry h) (by simp [hx])
  next => cases h

/-- Only the TLB raises an exception in translation. -/
theorem State.translateMapped_of_translate_exc (h : s.translate va k = .exc x t) :
    s.translateMapped va k = .exc x t := by
  unfold State.translate at h
  split at h
  · cases h
  split at h
  · cases h
  split at h
  · exact h
  split at h <;> cases h

theorem State.miss_of_translate_refill (h : s.translate va k = .exc x t) (hx : x.isRefill = true) :
    va.getLsbD 31 = false ∧ ∀ i, (s.tlbEntry i).maps (va.extractLsb' 12 20) s.cp0.entryHi.pid = false := by
  obtain ⟨hlow, hnone⟩ := State.miss_of_translateMapped_refill (State.translateMapped_of_translate_exc h) hx
  refine ⟨hlow, fun i => Bool.eq_false_iff.2 fun hi => ?_⟩
  have hmem := (s.mem_tlbMatches _ i).2 hi
  rw [hnone] at hmem
  cases hmem

end

/-! ## The obligation -/

/-- Settles O26: the vectors by kind, each translated in its unmapped segment, and the refill traced back to the
TLB that found nothing. -/
theorem exceptionVectors : Obligations.ExceptionVectors := by
  unfold Obligations.ExceptionVectors
  refine ⟨fun chip m => ⟨rfl, rfl⟩, fun x va h => exceptionVector_of_refill (x.isRefill_iff.2 ⟨va, h⟩),
    fun x h => exceptionVector_of_not_refill (Bool.eq_false_iff.2 fun hx => ?_), fun s =>
    ⟨s.translate_kseg0 _ _ rfl, s.translate_kseg0 _ _ rfl, s.translate_kseg1 _ _ rfl,
      s.translate_kseg1 _ _ rfl, s.translate_kseg1 _ _ rfl⟩, fun s t va v k h => ?_⟩
  · obtain ⟨va, hva⟩ := x.isRefill_iff.1 hx
    exact hva.elim (h va).1 (h va).2
  · rcases h with h | h <;> exact State.miss_of_translate_refill h rfl

end Sys2Proof.Machine
